-- ==== Sys2Proof/Word.lean ====
section
/-! DEFINITION. The word types of the LUMINA link core: bytes of the buffer RAM, 32-bit registers. -/

namespace Sys2Proof

/-- One byte of the buffer RAM (R35, R60). -/
abbrev Byte := BitVec 8

/-- One 32-bit register of the register space (R9, R21). -/
abbrev Word := BitVec 32

end Sys2Proof
end

