-- ==== Sys2Proof/Syntax.lean ====
section
/-! DEFINITION. The commands of the core, one constructor per row of spec/opcode_table.json (R91). A command word carries
no operand (R101): every operand stands in a register. -/

namespace Sys2Proof

/-- The nineteen operations of the opcode map (R91). -/
inductive Instr where
  /-- 0x01, luma of one RGB sample (R140). -/
  | luma
  /-- 0x02, calibration threshold from ambient samples (R141). -/
  | threshold
  /-- 0x03, brightness samples to bits (R142). -/
  | bitDecide
  /-- 0x04, even-parity bit of a bit string (R150). -/
  | parBit
  /-- 0x05, validate one ByteFrame (R151). -/
  | parCheck
  /-- 0x06, bytes to ByteFrames (R152). -/
  | parEncode
  /-- 0x07, ByteFrames to bytes (R153). -/
  | parDecode
  /-- 0x08, CRC-16 of a byte string (R171). -/
  | crc16
  /-- 0x10, wrap a payload in a packet (R180). -/
  | frameCreate
  /-- 0x11, find and unwrap the first packet (R185). -/
  | frameParse
  /-- 0x18, split a byte string into chunk records (R200). -/
  | chunk
  /-- 0x19, rebuild a byte string from chunk records (R202). -/
  | reassemble
  /-- 0x20, raw LZ77 encoding (R220). -/
  | lzCompress
  /-- 0x21, replay an LZ77 bit stream (R222). -/
  | lzDecompress
  /-- 0x22, compress only when it helps (R224). -/
  | compressData
  /-- 0x28, append parity shards (R241). -/
  | fecEncode
  /-- 0x29, check and attempt correction (R242). -/
  | fecDecode
  /-- 0x30, prepend the mode tag (R256). -/
  | envWrap
  /-- 0x31, split off the mode tag (R257). -/
  | envUnwrap
deriving DecidableEq, Repr

end Sys2Proof
end

