-- ==== Sys2Proof/WellFormed.lean ====
section
/-! DEFINITION. Which command words are legal (R93). An `Instr` has no operand field, so there is nothing to check in it:
the terms that can be ill-formed are the 32-bit words a host writes to CMD. -/

namespace Sys2Proof

/-- CMD[31:8], the field that must be 0 (R26). -/
def reservedField (w : Word) : BitVec 24 := w.extractLsb' 8 24

/-- CMD[7:0], the OPCODE (R26). -/
def opcodeField (w : Word) : BitVec 8 := w.extractLsb' 0 8

/-- The opcodes that the map of R91 assigns, group by group (D9). -/
def assignedOpcodes : List (BitVec 8) :=
  [0x01, 0x02, 0x03, 0x04, 0x05, 0x06, 0x07, 0x08]
    ++ [0x10, 0x11] ++ [0x18, 0x19] ++ [0x20, 0x21, 0x22] ++ [0x28, 0x29] ++ [0x30, 0x31]

/-- First check of R93: the reserved field is 0. -/
def reservedIsZero (w : Word) : Bool := reservedField w == 0

/-- Second check of R93: the opcode is one of R91. -/
def opcodeIsAssigned (w : Word) : Bool := assignedOpcodes.contains (opcodeField w)

/-- A command word that R93 does not call illegal. -/
def commandWordWellFormed (w : Word) : Bool := reservedIsZero w && opcodeIsAssigned w

end Sys2Proof
end

