-- ==== Sys2Proof/Decode.lean ====
section
/-! DEFINITION. The decoder of command words, total and rejecting by name (R91, R93), and after it the encoder, written
from the same opcode map. -/

namespace Sys2Proof

/-- Why a command word names no operation (R93). Either way the core completes it with ILLEGAL_OPCODE. -/
inductive DecodeError where
  /-- CMD[31:8] is not 0. -/
  | reservedNotZero
  /-- CMD[7:0] is not in the opcode map. -/
  | unassignedOpcode
deriving DecidableEq, Repr

/-- The opcode map, row by row (R91). -/
def opcodeMap : List (BitVec 8 × Instr) :=
  [(0x01, .luma), (0x02, .threshold), (0x03, .bitDecide), (0x04, .parBit), (0x05, .parCheck), (0x06, .parEncode),
   (0x07, .parDecode), (0x08, .crc16), (0x10, .frameCreate), (0x11, .frameParse), (0x18, .chunk), (0x19, .reassemble),
   (0x20, .lzCompress), (0x21, .lzDecompress), (0x22, .compressData), (0x28, .fecEncode), (0x29, .fecDecode),
   (0x30, .envWrap), (0x31, .envUnwrap)]

/-- The operation a command word names (R93: reserved bits first, then the opcode). -/
def decode (w : Word) : Except DecodeError Instr :=
  if reservedField w = 0 then
    match opcodeMap.lookup (opcodeField w) with
    | some i => .ok i
    | none => .error .unassignedOpcode
  else .error .reservedNotZero

/-- The decoder's answer for a word given as the opcode table numbers it: one 32-bit command word, bits above `nbits`
zero. A word that does not fit the 32-bit CMD register is no command. -/
def decodeTableWord (nbits w : Nat) : Option Instr :=
  if w % 2 ^ nbits < 2 ^ 32 then
    match decode (BitVec.ofNat 32 (w % 2 ^ nbits)) with
    | .ok i => some i
    | .error _ => none
  else none

/-- The opcode of an operation (R91). -/
def opcodeOf : Instr → BitVec 8
  | .luma => 0x01
  | .threshold => 0x02
  | .bitDecide => 0x03
  | .parBit => 0x04
  | .parCheck => 0x05
  | .parEncode => 0x06
  | .parDecode => 0x07
  | .crc16 => 0x08
  | .frameCreate => 0x10
  | .frameParse => 0x11
  | .chunk => 0x18
  | .reassemble => 0x19
  | .lzCompress => 0x20
  | .lzDecompress => 0x21
  | .compressData => 0x22
  | .fecEncode => 0x28
  | .fecDecode => 0x29
  | .envWrap => 0x30
  | .envUnwrap => 0x31

/-- The command word of an operation: the opcode in CMD[7:0], the reserved field 0 (R26). -/
def encode (i : Instr) : Word := (opcodeOf i).setWidth 32

end Sys2Proof
end

