-- ==== Sys2Proof/Config.lean ====
section
/-! DEFINITION. What an implementation fixes: the constants of R7, the register reset values of R8 and R300, the size
the model's reset state takes for the buffer RAM, and the free values of the spec (R35, R303). -/

namespace Sys2Proof.Config

/-- The ID register's fixed value (R23). -/
def idWord : Word := 0x4C554D07

/-- CRC polynomial (R7, R170). -/
def crcPolynomial : BitVec 16 := 0x1021

/-- CRC initial register (R7, R170). -/
def crcInitial : BitVec 16 := 0xFFFF

/-- START sentinel (R7, R110). -/
def startSentinel : Byte := 0xFF

/-- END sentinel (R7, R110). -/
def endSentinel : Byte := 0x00

/-- LZ77: the largest match distance, the 12-bit field's largest value (R7, R216, C1). -/
abbrev lzMaxDistance : Nat := 4095

/-- LZ77: the longest match, the 8-bit field's largest value (R7, R215). -/
abbrev lzMaxLength : Nat := 255

/-- LZ77: the shortest match the encoder emits (R7, R215). -/
abbrev lzMinMatch : Nat := 3

/-- COMPRESS_DATA attempts compression on inputs of at least this many bytes (R7, R224). -/
abbrev compressMinBytes : Nat := 100

/-- THRESHOLD without samples: the default of 128 units, in milli-units (R7, R141). -/
abbrev defaultThreshold : Nat := 128000

/-- The largest payload a 16-bit LENGTH describes (R180). -/
abbrev maxPayload : Nat := 65535

/-- The value a RES register holds where a rule says "none" (R100). -/
def noneWord : Word := 0xFFFFFFFF

/-- BUF_BYTES in `State.reset`. The spec leaves it OPEN with 1 ≤ BUF_BYTES ≤ 2^28 (R9, D6).
DESIGN CHOICE (log entry 1): 0x20000, large enough for every vector of 95_test_vectors.md. Unsafe; no statement rests
on it, since BUF_BYTES is a field of State and every statement holds for every value of the field. -/
def resetBufBytes : Nat := 0x20000

/-- FREE VALUE (R303, I4; log entry 8). When a soft reset aborts an operation, what becomes of the byte at the second
argument, an address of the aborted operation's DST range: `none`, it stays as it was; `some v`, it becomes v and is
initialised. The first argument is State's counter of aborts, so that each abort chooses afresh. It has no body: nothing
can be proved of a value of it. -/
opaque abortedByte : Nat → Nat → Option (BitVec 8)

/-- FREE VALUE (R35, I3; log entry 20). The unspecified contents of the byte at the second argument while nothing has written
it, which BitWrite keeps in the seven bits it does not write (R67). The first argument is a counter, so that the contents
may differ from one time to another. It has no body. -/
opaque unwrittenByte : Nat → Nat → BitVec 8

end Sys2Proof.Config
end

