-- ==== Sys2Proof/Machine/State.lean ====
section
/-! DEFINITION. The state of the core (10_state.md), the transactions its host can make (R121, R122), the reasons a step
can stop, and the state after reset (R300). -/

namespace Sys2Proof.Machine

/-- The command phase (R36). STATUS.BUSY mirrors it. -/
inductive Phase where
  | idle
  | busy
deriving DecidableEq, Repr

/-- The values STATUS.RC takes (R265); their 8-bit codes are `ResultCode.code`. The value 0x00 also stands in RC after
reset and while BUSY (R90, R300). -/
inductive ResultCode where
  | success
  | calibrationInsufficient
  | compressionNotBeneficial
  | incompleteChunks
  | incompletePacket
  | parityMismatch
  | checksumMismatch
  | frameNotFound
  | invalidEndFrame
  | fecUncorrectable
  | lzMalformed
  | badLength
  | badEnvelope
  | illegalOpcode
  | addrRange
  | overlap
  | badArg
  | dstOverflow
deriving DecidableEq, Repr

/-- The names the fault record holds (R276). Recording one does not stop the machine. -/
inductive FaultName where
  /-- BUS_ERROR: a register access that is not an aligned word of the register space, or a buffer address that does not exist. -/
  | busError
  /-- UNINIT_READ: a read of a buffer byte that nothing has written. -/
  | uninitRead
  /-- HOST_RACE: a host access, while BUSY, to a byte of the running operation's ranges. -/
  | hostRace
deriving DecidableEq, Repr

/-- The fault record, a set of fault names (R37). -/
structure FaultSet where
  busError : Bool
  uninitRead : Bool
  hostRace : Bool
deriving DecidableEq, Repr

/-- One thing that can happen next, as the host or the platform makes it happen (R18, R76, R122). -/
inductive Input where
  /-- A host read of `size` bytes at an offset of the register space (R22). -/
  | regRead (offset size : Nat)
  /-- A host write of `size` bytes at an offset of the register space (R22); a legal one has size 4. -/
  | regWrite (offset size : Nat) (data : Word)
  /-- A host read of one byte of buffer RAM (R61). -/
  | bufRead (addr : Nat)
  /-- A host write of one byte of buffer RAM (R61). -/
  | bufWrite (addr : Nat) (data : Byte)
  /-- The reset input is asserted (R300, R302). -/
  | resetInput
  /-- No host event comes first: the core may take its step here (R311). -/
  | coreTurn
deriving DecidableEq, Repr

/-- Why a step stops. -/
inductive Fault where
  /-- Raised by `step` when the core is stuck after UNINIT_READ (R97, I8) and the host has nothing pending: no agent has a
  step to take. Safe: the spec gives this state no next step but a reset, which the host would have to make. -/
  | coreStuck
deriving DecidableEq, Repr

/-- Why an instruction has no meaning. -/
inductive Refusal where
  /-- An instruction the model does not give a meaning to. No arm of `exec` answers with it: every row of the opcode
  table is modelled. Safe. -/
  | notModelled (mnemonic : String)
deriving DecidableEq, Repr

/-- Buffer RAM as the bytes that are initialised (R35): an address that is not listed has its init flag false, and its byte
has no value. Canonical form: addresses strictly rising (`Memory.wf`). -/
abbrev Memory := List Host.Cell

/-- Everything the spec gives the core, and the model's own fields (the last four and `bufBytes`). Reserved register fields
read 0 and ignore writes (R22), so they hold no state; ID is a constant (R23); irq is computed (R38). -/
structure State where
  /-- The parameter BUF_BYTES (R9, D6). No step changes it. -/
  bufBytes : Nat
  /-- CTRL[0], IRQ_EN (R24). -/
  irqEn : Bool
  /-- phase, and STATUS[0], BUSY (R25, R36). -/
  phase : Phase
  /-- STATUS[1], DONE (R25). -/
  done : Bool
  /-- STATUS[2], VALID (R25). -/
  valid : Bool
  /-- STATUS[3], WERR (R25). -/
  werr : Bool
  /-- STATUS[15:8], RC (R25). -/
  rc : ResultCode
  /-- CMD, the last accepted command word (R26). -/
  cmd : Word
  /-- SRC_ADDR (R27). -/
  srcAddr : Word
  /-- SRC_LEN (R27). -/
  srcLen : Word
  /-- DST_ADDR (R27). -/
  dstAddr : Word
  /-- DST_CAP (R27). -/
  dstCap : Word
  /-- ARG0 (R27). -/
  arg0 : Word
  /-- ARG1 (R27). -/
  arg1 : Word
  /-- ARG2 (R27). -/
  arg2 : Word
  /-- ARG3 (R27). -/
  arg3 : Word
  /-- RES0 (R34). -/
  res0 : Word
  /-- RES1 (R34). -/
  res1 : Word
  /-- RES2 (R34). -/
  res2 : Word
  /-- RES3 (R34). -/
  res3 : Word
  /-- CFG_FEC[7:0], DATA_SHARDS (R28). -/
  dataShards : Byte
  /-- CFG_FEC[15:8], PARITY_SHARDS (R28). -/
  parityShards : Byte
  /-- CFG_CHUNK, MAX_CHUNK (R29). -/
  cfgChunk : Word
  /-- CFG_COMP[0], COMP_EN (R30). -/
  compEn : Bool
  /-- CFG_MARGIN, MARGIN (R31). -/
  cfgMargin : Word
  /-- CFG_BITDUR, BITDUR (R33). -/
  cfgBitdur : Word
  /-- CFG_MAXLEN[15:0], MAXLEN (R32). -/
  maxLen : BitVec 16
  /-- Buffer RAM: `mem` and `init` of R35 in one list. -/
  mem : Memory
  /-- The fault record (R37). -/
  faults : FaultSet
  /-- The core met a fault in the running operation and takes no step until a reset (R97, I8). -/
  stuck : Bool
  /-- The model's own: the events still to come, in order (log entry 5). -/
  inputs : List Input
  /-- The model's own: what the last host read returned (log entry 7). -/
  readData : Option Word
  /-- The model's own: how many operations a soft reset has aborted, for the free value (log entry 8). -/
  freeCount : Nat
deriving DecidableEq, Repr

/-- The state at power-on of a core whose buffer RAM has `n` bytes (R300). -/
def State.powerOn (n : Nat) : State where
  bufBytes := n
  irqEn := false
  phase := .idle
  done := false
  valid := false
  werr := false
  rc := .success
  cmd := 0
  srcAddr := 0
  srcLen := 0
  dstAddr := 0
  dstCap := 0
  arg0 := 0
  arg1 := 0
  arg2 := 0
  arg3 := 0
  res0 := 0
  res1 := 0
  res2 := 0
  res3 := 0
  dataShards := 4
  parityShards := 2
  cfgChunk := 0x100
  compEn := true
  cfgMargin := 0xC350
  cfgBitdur := 0x64
  maxLen := 0xFFFF
  mem := []
  faults := ⟨false, false, false⟩
  stuck := false
  inputs := []
  readData := none
  freeCount := 0

/-- The machine right after reset (R300), with the buffer size of log entry 1. -/
def State.reset : State := State.powerOn Config.resetBufBytes

end Sys2Proof.Machine
end

