-- ==== Sys2Proof/Machine/Flags.lean ====
section
/-! DEFINITION. The status flags and the register words made of fields: result codes (R265, R266), STATUS, CTRL and the
CFG_ words (R24, R25, R28, R30, R32), the interrupt output (R280) and the fault record's two operations (R37). -/

namespace Sys2Proof.Machine

/-- The 8-bit value of a result code (R265). -/
def ResultCode.code : ResultCode → BitVec 8
  | .success => 0x00
  | .calibrationInsufficient => 0x01
  | .compressionNotBeneficial => 0x02
  | .incompleteChunks => 0x03
  | .incompletePacket => 0x04
  | .parityMismatch => 0x10
  | .checksumMismatch => 0x11
  | .frameNotFound => 0x12
  | .invalidEndFrame => 0x13
  | .fecUncorrectable => 0x14
  | .lzMalformed => 0x15
  | .badLength => 0x16
  | .badEnvelope => 0x17
  | .illegalOpcode => 0x20
  | .addrRange => 0x21
  | .overlap => 0x22
  | .badArg => 0x23
  | .dstOverflow => 0x24

/-- `valid(rc)` (R266). -/
def ResultCode.valid : ResultCode → Bool
  | .success | .calibrationInsufficient | .compressionNotBeneficial => true
  | _ => false

/-- STATUS.BUSY (R25, R36). -/
def busy (s : State) : Bool := s.phase == .busy

/-- The word a read of STATUS returns (R25). -/
def statusWord (s : State) : Word :=
  BitVec.ofNat 32
    ((busy s).toNat + 2 * s.done.toNat + 4 * s.valid.toNat + 8 * s.werr.toNat + 256 * s.rc.code.toNat)

/-- The word a read of CTRL returns: SOFT_RESET and the reserved field read 0 (R24). -/
def ctrlWord (s : State) : Word := BitVec.ofNat 32 s.irqEn.toNat

/-- The word a read of CFG_FEC returns (R28). -/
def cfgFecWord (s : State) : Word := BitVec.ofNat 32 (s.dataShards.toNat + 256 * s.parityShards.toNat)

/-- The word a read of CFG_COMP returns (R30). -/
def cfgCompWord (s : State) : Word := BitVec.ofNat 32 s.compEn.toNat

/-- The word a read of CFG_MAXLEN returns (R32). -/
def cfgMaxlenWord (s : State) : Word := s.maxLen.setWidth 32

/-- A write-1-to-clear bit: writing 1 clears it, writing 0 leaves it (R25). -/
def w1c (old written : Bool) : Bool := old && !written

/-- The interrupt output (R38, R280). -/
def irq (s : State) : Bool := s.done && s.irqEn

/-- Is a name in the fault record (R37)? -/
def FaultSet.has (f : FaultSet) : FaultName → Bool
  | .busError => f.busError
  | .uninitRead => f.uninitRead
  | .hostRace => f.hostRace

/-- Add a name to the fault record (R37). -/
def FaultSet.add (f : FaultSet) : FaultName → FaultSet
  | .busError => { f with busError := true }
  | .uninitRead => { f with uninitRead := true }
  | .hostRace => { f with hostRace := true }

end Sys2Proof.Machine
end

