-- ==== Sys2Proof/Machine/Ops.lean ====
section
/-! DEFINITION. The named operations over buffer RAM and registers: the access primitives (R62–R64), bit streams
(R67–R69), number and bit-string conversions (R10, R11), Emit (R99), and COMPLETING AN OPERATION, which is this core's one
form of taking an exception (R97, R271), with command acceptance (R90), dropped writes (R42) and resets (R302, R303)
beside it. -/

namespace Sys2Proof.Machine

/-! ### Buffer RAM -/

/-- The byte at an address, or none where its init flag is false (R35). -/
def readByte : Memory → Nat → Option Byte
  | [], _ => none
  | (a, v) :: rest, x => if a = x then some v else readByte rest x

/-- `mem[x] <- v ; init[x] <- true` (R61, R63), keeping the list in rising order. -/
def writeByte : Memory → Nat → Byte → Memory
  | [], x, v => [(x, v)]
  | (a, w) :: rest, x, v =>
    if a < x then (a, w) :: writeByte rest x v
    else if a = x then (a, v) :: rest
    else (x, v) :: (a, w) :: rest

/-- The canonical form: addresses strictly rising. Every listed entry differs from what an unlisted address reads as, since
that has no value. -/
def Memory.wf : Memory → Bool
  | [] => true
  | [_] => true
  | (a, _) :: (b, w) :: rest => decide (a < b) && Memory.wf ((b, w) :: rest)

/-- `MemBytes(addr, n)` (R64), or none where one of the bytes is not initialised (R62). -/
def memBytes (m : Memory) : Nat → Nat → Option (List Byte)
  | _, 0 => some []
  | addr, n + 1 =>
    match readByte m addr with
    | none => none
    | some b => (memBytes m (addr + 1) n).map (b :: ·)

/-- `PutBytes(addr, s)` (R64). -/
def putBytes : Memory → Nat → List Byte → Memory
  | m, _, [] => m
  | m, addr, b :: bs => putBytes (writeByte m addr b) (addr + 1) bs

/-- The unsigned number a byte string is, big-endian (R62, R70). -/
def beVal (bs : List Byte) : Nat := bs.foldl (fun acc b => acc * 256 + b.toNat) 0

/-- The n-byte big-endian encoding of v (R63); `be32` of 43_chunker.md is `beBytes 4`. -/
def beBytes : Nat → Nat → List Byte
  | 0, _ => []
  | n + 1, v => BitVec.ofNat 8 (v / 256 ^ n) :: beBytes n v

/-- `MemRead(addr, n)` (R62). -/
def memRead (m : Memory) (addr n : Nat) : Option Nat := (memBytes m addr n).map beVal

/-- `MemWrite(addr, n, v)` (R63). -/
def memWrite (m : Memory) (addr n v : Nat) : Memory := putBytes m addr (beBytes n v)

/-! ### Bit strings -/

/-- `bitsMSB(v, w)` (R11). -/
def bitsMSB : Nat → Nat → List Bool
  | 0, _ => []
  | w + 1, v => v.testBit w :: bitsMSB w v

/-- `valMSB(b)` (R11). -/
def valMSB (b : List Bool) : Nat := b.foldl (fun acc x => 2 * acc + x.toNat) 0

/-- `popcount` of a bit string (R10). -/
def popcount (b : List Bool) : Nat := b.count true

/-- The eight stream bits a byte holds, its most significant bit first (R67). -/
def byteBits (b : Byte) : List Bool := bitsMSB 8 b.toNat

/-- The stream bits of a byte string, byte by byte (R67, R70). -/
def bytesBits (bs : List Byte) : List Bool := bs.flatMap byteBits

/-- The byte that holds the given stream bits, the first in bit 7 (R67); at most eight are given, and the missing ones are
pad bits, written 0 (R69). -/
def packByte (b : List Bool) : Byte := BitVec.ofNat 8 (valMSB (b ++ List.replicate (8 - b.length) false))

/-- ceil(n/8), the bytes that n stream bits occupy (R67). -/
def bytesOfBits (n : Nat) : Nat := (n + 7) / 8

/-- The first n bytes that hold a bit string, eight bits a byte (R67). -/
def packBytes : Nat → List Bool → List Byte
  | 0, _ => []
  | n + 1, b => packByte (b.take 8) :: packBytes n (b.drop 8)

/-- The ceil(len/8) bytes a bit string is stored in (R67, R69). -/
def packBits (b : List Bool) : List Byte := packBytes (bytesOfBits b.length) b

/-- `BitRead(base, k)` (R67), or none where the byte is not initialised. -/
def bitRead (m : Memory) (base k : Nat) : Option Bool :=
  (readByte m (base + k / 8)).map (fun b => decide (b.toNat / 2 ^ (7 - k % 8) % 2 = 1))

/-- A byte with its bit i set to b (R67). -/
def setBit (x : Byte) (i : Nat) (b : Bool) : Byte :=
  if b then x ||| BitVec.twoPow 8 i else x &&& ~~~(BitVec.twoPow 8 i)

/-- `BitWrite(base, k, b)` (R12, R67): bit 7 − (k mod 8) of the byte at base + (k div 8) becomes b, and the byte is
initialised. No operation calls it: each writes its stream whole, by BitsOut (R69). The other bits of a byte that nothing
has written are the free value of log entry 20, drawn with the counter `fresh`. -/
def bitWrite (fresh : Nat) (m : Memory) (base k : Nat) (b : Bool) : Memory :=
  let a := base + k / 8
  writeByte m a (setBit ((readByte m a).getD (Config.unwrittenByte fresh a)) (7 - k % 8) b)

/-- `BitsIn(base, L)`, or none where one of its ceil(L/8) bytes is not initialised (R68). -/
def bitsIn (m : Memory) (base L : Nat) : Option (List Bool) :=
  (memBytes m base (bytesOfBits L)).map (fun bs => (bytesBits bs).take L)

/-- `BitsOut(base, s)` (R69). -/
def bitsOut (m : Memory) (base : Nat) (b : List Bool) : Memory := putBytes m base (packBits b)

/-! ### Completing an operation -/

/-- What an operation ends with (R97): its result code, its four result words, and the bytes it writes from DST_ADDR on.
A RES register that a rule does not name is 0 (R34). -/
structure Completion where
  rc : ResultCode
  res0 : Word := 0
  res1 : Word := 0
  res2 : Word := 0
  res3 : Word := 0
  out : List Byte := []
deriving DecidableEq, Repr

/-- What `Perform` answers (R97): a completion, or the fault it reached. -/
abbrev Perform := Except FaultName Completion

/-- `raise <RC>` before any result is named (R13): every RES register 0, nothing written. -/
def raiseRc (rc : ResultCode) : Perform := .ok { rc := rc }

/-- A count as a result word (R100). -/
def resWord (n : Nat) : Word := BitVec.ofNat 32 n

/-- `Emit` (R99): `full` is the completion if its output fits DST_CAP; otherwise DST_OVERFLOW, with the RES registers the
rule has named so far (`sofar`) and nothing written. -/
def emit (s : State) (sofar full : Completion) : Perform :=
  if s.dstCap.toNat < full.out.length then .ok { sofar with rc := .dstOverflow, out := [] } else .ok full

/-- The core's step when `Perform` completes: one atomic event (R97, R271). -/
def complete (s : State) (c : Completion) : State :=
  { s with
    mem := putBytes s.mem s.dstAddr.toNat c.out
    res0 := c.res0
    res1 := c.res1
    res2 := c.res2
    res3 := c.res3
    rc := c.rc
    valid := c.rc.valid
    phase := .idle
    done := true }

/-- Add a name to the fault record; nothing else changes (R276). -/
def recordFault (s : State) (f : FaultName) : State := { s with faults := s.faults.add f }

/-- The core's step when `Perform` reaches a fault: the fault is recorded, phase stays BUSY, nothing is written, and the
core takes no further step (R97). -/
def halt (s : State) (f : FaultName) : State := { recordFault s f with stuck := true }

/-- The core's step, once `Perform` is evaluated (R97). -/
def finish (s : State) : Perform → Host.Outcome State Fault Refusal
  | .ok c => .next (complete s c)
  | .error f => .next (halt s f)

/-- The step of an illegal command word (R93). -/
def completeIllegal (s : State) : Host.Outcome State Fault Refusal := finish s (raiseRc .illegalOpcode)

/-- Acceptance of a command word (R90): RES and WERR are not changed. DEDUCED (log entry 22): VALID and RC are cleared here,
as R90 and R307 say, where the last sentence of R272 would have them keep their values until the next completion. -/
def acceptCommand (s : State) (w : Word) : State :=
  { s with cmd := w, done := false, valid := false, rc := .success, phase := .busy, stuck := false }

/-- A register write while BUSY (R42). -/
def dropWrite (s : State) : State := { s with werr := true }

/-- Every register of R21 at its value in R300, and phase IDLE; buffer RAM, the fault record and the model's own fields
stay (R303, R304). -/
def resetRegisters (s : State) : State :=
  { State.powerOn s.bufBytes with
    mem := s.mem
    faults := s.faults
    inputs := s.inputs
    readData := s.readData
    freeCount := s.freeCount }

/-- The reset input (R300, R302): as a register reset, and every buffer byte is uninitialised. -/
def resetByInput (s : State) : State := { resetRegisters s with mem := [] }

end Sys2Proof.Machine
end

