-- ==== Sys2Proof/Machine/Operands.lean ====
section
/-! DEFINITION. Operand forms: which operations read and write buffer RAM and in which unit SRC_LEN counts (R95), the SRC
and DST ranges (R96), the common checks (R98), argument fields (R94, R101) and brightness samples (R119). -/

namespace Sys2Proof.Machine

/-- What SRC_LEN counts (R95). -/
inductive SrcUnit where
  | unused
  | samples
  | bits
  | bytes
deriving DecidableEq, Repr

/-- The column "SRC_LEN counts" of R95. -/
def srcUnit : Instr → SrcUnit
  | .luma => .unused
  | .threshold | .bitDecide => .samples
  | .parBit | .parCheck | .parDecode | .frameParse | .lzDecompress => .bits
  | .parEncode | .crc16 | .frameCreate | .chunk | .reassemble | .lzCompress | .compressData | .fecEncode | .fecDecode
  | .envWrap | .envUnwrap => .bytes

/-- The column "reads buffer RAM" of R95. -/
def readsRam : Instr → Bool
  | .luma => false
  | _ => true

/-- The column "writes buffer RAM" of R95. -/
def writesRam : Instr → Bool
  | .luma | .threshold | .parBit | .parCheck | .crc16 => false
  | _ => true

/-- SRC_LEN as a number. -/
abbrev srcCount (s : State) : Nat := s.srcLen.toNat

/-- The column "srcBytes" of R95. -/
def srcBytes (i : Instr) (s : State) : Nat :=
  match srcUnit i with
  | .unused => 0
  | .samples => 4 * srcCount s
  | .bits => bytesOfBits (srcCount s)
  | .bytes => srcCount s

/-- `fits` (R66): on mathematical integers, and an empty range fits up to BUF_BYTES. -/
def fits (s : State) (addr n : Nat) : Bool := decide (addr + n ≤ s.bufBytes)

/-- Is an address in the SRC range of an operation (R96)? -/
def inSrcRange (i : Instr) (s : State) (a : Nat) : Bool :=
  readsRam i && decide (s.srcAddr.toNat ≤ a) && decide (a < s.srcAddr.toNat + srcBytes i s)

/-- Is an address in the DST range of an operation (R96)? -/
def inDstRange (i : Instr) (s : State) (a : Nat) : Bool :=
  writesRam i && decide (s.dstAddr.toNat ≤ a) && decide (a < s.dstAddr.toNat + s.dstCap.toNat)

/-- Check 4 of R98: both ranges are non-empty and share a byte. -/
def rangesOverlap (i : Instr) (s : State) : Bool :=
  readsRam i && writesRam i && decide (0 < srcBytes i s) && decide (0 < s.dstCap.toNat)
    && decide (s.srcAddr.toNat < s.dstAddr.toNat + s.dstCap.toNat)
    && decide (s.dstAddr.toNat < s.srcAddr.toNat + srcBytes i s)

/-- Checks 2, 3 and 4 of R98, in order; check 1 is the decoder's (R93), check 5 each operation's own. -/
def commonCheck (i : Instr) (s : State) : Option ResultCode :=
  if readsRam i && !fits s s.srcAddr.toNat (srcBytes i s) then some .addrRange
  else if writesRam i && !fits s s.dstAddr.toNat s.dstCap.toNat then some .addrRange
  else if rangesOverlap i s then some .overlap
  else none

/-- An operation's own steps, run after the common checks (R98). -/
def prechecked (i : Instr) (s : State) (own : Unit → Perform) : Perform :=
  match commonCheck i s with
  | some rc => raiseRc rc
  | none => own ()

/-- Go on with the n bytes from SRC_ADDR on (R64); an uninitialised one is `fault UNINIT_READ` (R62). -/
def withSrcBytes (s : State) (n : Nat) (own : List Byte → Perform) : Perform :=
  match memBytes s.mem s.srcAddr.toNat n with
  | some d => own d
  | none => .error .uninitRead

/-- Go on with the stream of n bits at SRC_ADDR (R68); an uninitialised byte is `fault UNINIT_READ`. -/
def withSrcBits (s : State) (n : Nat) (own : List Bool → Perform) : Perform :=
  match bitsIn s.mem s.srcAddr.toNat n with
  | some b => own b
  | none => .error .uninitRead

/-- n brightness samples, 4-byte big-endian words from an address on (R119). -/
def samplesAt (m : Memory) : Nat → Nat → Option (List Nat)
  | _, 0 => some []
  | addr, n + 1 =>
    match memRead m addr 4 with
    | none => none
    | some v => (samplesAt m (addr + 4) n).map (v :: ·)

/-- Go on with the n samples at SRC_ADDR (R119). -/
def withSamples (s : State) (n : Nat) (own : List Nat → Perform) : Perform :=
  match samplesAt s.mem s.srcAddr.toNat n with
  | some v => own v
  | none => .error .uninitRead

/-- The field `v[hi:lo]` of a register, as an unsigned number (R10, R94). -/
def field (v : Word) (hi lo : Nat) : Nat := v.toNat / 2 ^ lo % 2 ^ (hi + 1 - lo)

/-- A byte operand in bits 7:0 (R94). -/
def lowByte (v : Word) : Byte := BitVec.ofNat 8 (field v 7 0)

/-- BIT_DECIDE's 64-bit numerator, ARG1·2^32 + ARG0 (R101). -/
def thresholdNum (s : State) : Nat := s.arg1.toNat * 2 ^ 32 + s.arg0.toNat

/-- FEC's shard count P, CFG_FEC.PARITY_SHARDS (R28). -/
abbrev parityCount (s : State) : Nat := s.parityShards.toNat

end Sys2Proof.Machine
end

