-- ==== Sys2Proof/Machine/BitCodec.lean ====
section
/-! DEFINITION. The Bit/Parity Codec (40_bitcodec.md): LUMA, THRESHOLD, BIT_DECIDE, PAR_BIT, PAR_CHECK, PAR_ENCODE,
PAR_DECODE. -/

namespace Sys2Proof.Machine

/-! ### Brightness and bit decision -/

/-- Luma in milli-units, exact (R140). -/
def lumaOf (r g b : Nat) : Nat := 299 * r + 587 * g + 114 * b

/-- R140. -/
def performLuma (s : State) : Perform :=
  if field s.arg0 31 24 ≠ 0 then raiseRc .badArg
  else .ok { rc := .success, res0 := resWord (lumaOf (field s.arg0 23 16) (field s.arg0 15 8) (field s.arg0 7 0)) }

/-- LUMA (R140). -/
def execLuma (s : State) : Host.Outcome State Fault Refusal := finish s (prechecked .luma s fun _ => performLuma s)

/-- The results of THRESHOLD: numerator in two words, denominator, number of samples (R141). -/
def thresholdResult (rc : ResultCode) (num den n : Nat) : Completion :=
  { rc := rc, res0 := resWord (num % 2 ^ 32), res1 := resWord (num / 2 ^ 32), res2 := resWord den, res3 := resWord n }

/-- R141. -/
def performThreshold (s : State) : Perform :=
  let n := srcCount s
  if n = 0 then .ok (thresholdResult .calibrationInsufficient Config.defaultThreshold 1 n)
  else withSamples s n fun v => .ok (thresholdResult .success (v.sum + s.cfgMargin.toNat * n) n n)

/-- THRESHOLD (R141). -/
def execThreshold (s : State) : Host.Outcome State Fault Refusal :=
  finish s (prechecked .threshold s fun _ => performThreshold s)

/-- A sample is 1 when it strictly exceeds the threshold NUM/DEN (R142). -/
def decideBit (num den sample : Nat) : Bool := decide (num < sample * den)

/-- R142. -/
def performBitDecide (s : State) : Perform :=
  if s.arg2.toNat = 0 then raiseRc .badArg
  else withSamples s (srcCount s) fun v =>
    let b := v.map (decideBit (thresholdNum s) s.arg2.toNat)
    emit s { rc := .success }
      { rc := .success, res0 := resWord (srcCount s), res1 := resWord (popcount b), out := packBits b }

/-- BIT_DECIDE (R142). -/
def execBitDecide (s : State) : Host.Outcome State Fault Refusal :=
  finish s (prechecked .bitDecide s fun _ => performBitDecide s)

/-! ### Parity -/

/-- The even-parity bit of a bit string (R150). -/
def parityOf (b : List Bool) : Nat := popcount b % 2

/-- R150. -/
def performParBit (s : State) : Perform :=
  withSrcBits s (srcCount s) fun b =>
    .ok { rc := .success, res0 := resWord (parityOf b), res1 := resWord (popcount b) }

/-- PAR_BIT (R150). -/
def execParBit (s : State) : Host.Outcome State Fault Refusal :=
  finish s (prechecked .parBit s fun _ => performParBit s)

/-- R151: a length other than 9 is invalid, and no byte is read. -/
def performParCheck (s : State) : Perform :=
  if srcCount s ≠ 9 then raiseRc .parityMismatch
  else withSrcBits s 9 fun b =>
    if parityOf b = 0 then .ok { rc := .success, res0 := 1, res1 := resWord (popcount b) }
    else .ok { rc := .parityMismatch, res0 := 0, res1 := resWord (popcount b) }

/-- PAR_CHECK (R151). -/
def execParCheck (s : State) : Host.Outcome State Fault Refusal :=
  finish s (prechecked .parCheck s fun _ => performParCheck s)

/-- The ByteFrame of a byte: its bits MSB-first, then the parity bit (R113). -/
def byteFrame (d : Byte) : List Bool := byteBits d ++ [parityOf (byteBits d) == 1]

/-- The frames of a byte string, one after the other (R152). -/
def byteFrames (d : List Byte) : List Bool := d.flatMap byteFrame

/-- R152. -/
def performParEncode (s : State) : Perform :=
  withSrcBytes s (srcCount s) fun d =>
    emit s { rc := .success } { rc := .success, res0 := resWord (9 * srcCount s), out := packBits (byteFrames d) }

/-- PAR_ENCODE (R152). -/
def execParEncode (s : State) : Host.Outcome State Fault Refusal :=
  finish s (prechecked .parEncode s fun _ => performParEncode s)

/-- The L div 9 complete frames of a stream (R153). -/
def splitFrames (b : List Bool) : List (List Bool) := (List.range (b.length / 9)).map fun i => (b.drop (9 * i)).take 9

/-- The data byte of a frame (R153). -/
def frameData (f : List Bool) : Byte := BitVec.ofNat 8 (valMSB (f.take 8))

/-- A frame fails when its count of 1 bits is odd (R153). -/
def frameBad (f : List Bool) : Bool := parityOf f == 1

/-- F of R153: the failing frames, and one more for a trailing partial frame. -/
def parityFailures (b : List Bool) : Nat :=
  (splitFrames b).countP frameBad + (if 0 < b.length % 9 then 1 else 0)

/-- `first` of R153: the first failing frame; else the partial frame's index; else none. -/
def firstFailure (b : List Bool) : Word :=
  match (splitFrames b).findIdx? frameBad with
  | some i => resWord i
  | none => if 0 < b.length % 9 then resWord (b.length / 9) else Config.noneWord

/-- The completion of R153 on a stream. -/
def parDecodeResult (b : List Bool) : Completion :=
  { rc := if parityFailures b = 0 then .success else .parityMismatch
    res0 := resWord (parityFailures b)
    res1 := firstFailure b
    res2 := resWord (9 * parityFailures b)
    res3 := resWord b.length
    out := (splitFrames b).map frameData }

/-- R153: on DST_OVERFLOW the RES registers are written as for the other outcomes. -/
def performParDecode (s : State) : Perform :=
  withSrcBits s (srcCount s) fun b => emit s (parDecodeResult b) (parDecodeResult b)

/-- PAR_DECODE (R153). -/
def execParDecode (s : State) : Host.Outcome State Fault Refusal :=
  finish s (prechecked .parDecode s fun _ => performParDecode s)

end Sys2Proof.Machine
end

