-- ==== Sys2Proof/Machine/Chunker.lean ====
section
/-! DEFINITION. The chunker and reassembler (43_chunker.md, R118): CHUNK and REASSEMBLE. -/

namespace Sys2Proof.Machine

/-- A chunk {sequence, total, data, type} (R118). -/
structure ChunkRecord where
  seq : Nat
  total : Nat
  typ : Byte
  data : List Byte
deriving DecidableEq, Repr

/-- The bytes of a chunk record: a 16-byte header, then the data (R118). -/
def recordBytes (r : ChunkRecord) : List Byte :=
  beBytes 4 r.seq ++ beBytes 4 r.total ++ beBytes 4 r.data.length ++ [r.typ, 0, 0, 0] ++ r.data

/-- The bytes of a chunk list: records back to back (R118). -/
def recordsBytes (rs : List ChunkRecord) : List Byte := rs.flatMap recordBytes

/-- k of R200: the number of chunks, at least one. -/
def chunkCount (n m : Nat) : Nat := max 1 ((n + m - 1) / m)

/-- The chunks of R200 for data d, type t and maximum chunk size m. -/
def chunksOf (m : Nat) (t : Byte) (d : List Byte) : List ChunkRecord :=
  (List.range (chunkCount d.length m)).map fun i =>
    { seq := i, total := chunkCount d.length m, typ := t, data := (d.drop (i * m)).take m }

/-- R200. -/
def performChunk (s : State) : Perform :=
  let n := srcCount s
  let m := s.cfgChunk.toNat
  if field s.arg0 31 8 ≠ 0 then raiseRc .badArg
  else if m = 0 then raiseRc .badArg
  else withSrcBytes s n fun d =>
    emit s { rc := .success }
      { rc := .success, res0 := resWord (chunkCount n m), res1 := resWord (16 * chunkCount n m + n)
        out := recordsBytes (chunksOf m (lowByte s.arg0) d) }

/-- CHUNK (R200). -/
def execChunk (s : State) : Host.Outcome State Fault Refusal :=
  finish s (prechecked .chunk s fun _ => performChunk s)

/-- Split a chunk list into its records, or none where it does not split into whole ones (R202). The bytes 13–15 of a
record are ignored (R118). The first argument bounds the number of records; the list's length is enough. -/
def splitRecords : Nat → List Byte → Option (List ChunkRecord)
  | _, [] => some []
  | 0, _ :: _ => none
  | fuel + 1, b =>
    let len := beVal ((b.drop 8).take 4)
    if b.length < 16 + len then none
    else
      (splitRecords fuel (b.drop (16 + len))).map fun rs =>
        { seq := beVal (b.take 4), total := beVal ((b.drop 4).take 4), typ := (b.drop 12).headD 0
          data := (b.drop 16).take len } :: rs

/-- Insert a record before the first one with a greater SEQ. -/
def insertBySeq (r : ChunkRecord) : List ChunkRecord → List ChunkRecord
  | [] => [r]
  | x :: xs => if r.seq ≤ x.seq then r :: x :: xs else x :: insertBySeq r xs

/-- `R sorted by seq ascending` (R202). -/
def sortBySeq : List ChunkRecord → List ChunkRecord
  | [] => []
  | r :: rs => insertBySeq r (sortBySeq rs)

/-- The checks of R202 on the records read: their TOTAL fields agree, their count is TOTAL, and their SEQ fields are
exactly 0 … TOTAL−1. -/
def chunksComplete (rs : List ChunkRecord) (total : Nat) : Bool :=
  rs.all (fun r => r.total == total) && rs.length == total
    && (sortBySeq rs).map (fun r => r.seq) == List.range total

/-- The completion of R202 on the records read, before Emit; `none` of the RES registers but RES3 is named on
INCOMPLETE_CHUNKS. RES0 is named after Emit. -/
def performRecords (s : State) (rs : List ChunkRecord) : Perform :=
  let incomplete : Completion := { rc := .incompleteChunks, res3 := resWord rs.length }
  match rs, sortBySeq rs with
  | r :: _, x :: xs =>
    if chunksComplete rs r.total then
      let out := (x :: xs).flatMap fun y => y.data
      let sofar : Completion :=
        { rc := .success, res1 := x.typ.setWidth 32, res2 := resWord r.total, res3 := resWord rs.length }
      emit s sofar { sofar with res0 := resWord out.length, out := out }
    else .ok incomplete
  | _, _ => .ok incomplete

/-- R202. -/
def performReassemble (s : State) : Perform :=
  withSrcBytes s (srcCount s) fun b =>
    match splitRecords b.length b with
    | none => raiseRc .badArg
    | some rs => performRecords s rs

/-- REASSEMBLE (R202). -/
def execReassemble (s : State) : Host.Outcome State Fault Refusal :=
  finish s (prechecked .reassemble s fun _ => performReassemble s)

end Sys2Proof.Machine
end

