-- ==== Sys2Proof/Machine/Envelope.lean ====
section
/-! DEFINITION. The payload mode envelope (46_envelope.md, R117): ENV_WRAP and ENV_UNWRAP. -/

namespace Sys2Proof.Machine

/-- A tag bit as the character '0' (0x30) or '1' (0x31) (R117). -/
def tagChar (bit : Nat) : Byte := BitVec.ofNat 8 (0x30 + bit)

/-- The two tag bytes of a mode 0..3, most significant bit first (R117, R255). -/
def modeTag (mode : Nat) : List Byte := [tagChar (mode / 2 % 2), tagChar (mode % 2)]

/-- R256. -/
def performEnvWrap (s : State) : Perform :=
  if field s.arg0 31 2 ≠ 0 then raiseRc .badArg
  else withSrcBytes s (srcCount s) fun q =>
    emit s { rc := .success }
      { rc := .success, res0 := resWord (srcCount s + 2), out := modeTag (field s.arg0 1 0) ++ q }

/-- ENV_WRAP (R256). -/
def execEnvWrap (s : State) : Host.Outcome State Fault Refusal :=
  finish s (prechecked .envWrap s fun _ => performEnvWrap s)

/-- The bit a tag character stands for, or none for any other byte (R117, R257). -/
def tagBit (b : Byte) : Option Nat := if b = 0x30 then some 0 else if b = 0x31 then some 1 else none

/-- The mode and the payload of an enveloped string, or none where its first two bytes are no tag (R257). -/
def splitEnvelope : List Byte → Option (Nat × List Byte)
  | t1 :: t0 :: q =>
    match tagBit t1, tagBit t0 with
    | some h, some l => some (2 * h + l, q)
    | _, _ => none
  | _ => none

/-- R257: a string of fewer than 2 bytes is refused before any byte is read. RES0 is named before Emit, RES1 after. -/
def performEnvUnwrap (s : State) : Perform :=
  if srcCount s < 2 then raiseRc .badEnvelope
  else withSrcBytes s (srcCount s) fun b =>
    match splitEnvelope b with
    | none => raiseRc .badEnvelope
    | some (mode, q) =>
      emit s { rc := .success, res0 := resWord mode }
        { rc := .success, res0 := resWord mode, res1 := resWord (srcCount s - 2), out := q }

/-- ENV_UNWRAP (R257). -/
def execEnvUnwrap (s : State) : Host.Outcome State Fault Refusal :=
  finish s (prechecked .envUnwrap s fun _ => performEnvUnwrap s)

end Sys2Proof.Machine
end

