-- ==== Sys2Proof/Machine/Fec.lean ====
section
/-! DEFINITION. The XOR parity-shard FEC (45_fec.md): FEC_ENCODE and FEC_DECODE. CFG_FEC.DATA_SHARDS has no effect (R244). -/

namespace Sys2Proof.Machine

/-- `Fold(D, j)` (R240). -/
def fecFold (d : List Byte) (j : Nat) : Byte := d.foldl (fun acc x => acc ^^^ (x ^^^ BitVec.ofNat 8 (j + 1))) 0

/-- The P parity bytes of a data block, in shard order (R240). -/
def parityBytes (d : List Byte) (p : Nat) : List Byte := (List.range p).map (fecFold d)

/-- R241. -/
def performFecEncode (s : State) : Perform :=
  withSrcBytes s (srcCount s) fun d =>
    emit s { rc := .success }
      { rc := .success, res0 := resWord (srcCount s + parityCount s), res1 := resWord (parityCount s)
        out := d ++ parityBytes d (parityCount s) }

/-- FEC_ENCODE (R241). -/
def execFecEncode (s : State) : Host.Outcome State Fault Refusal :=
  finish s (prechecked .fecEncode s fun _ => performFecEncode s)

/-- `d[pos] <- d[pos] ⊕ delta` with pos = delta mod n, for n > 0 (R242). -/
def fecPatch (d : List Byte) (delta : Byte) : List Byte :=
  if d.length = 0 then d
  else d.set (delta.toNat % d.length) (d.getD (delta.toNat % d.length) 0 ^^^ delta)

/-- One shard of R242: the fold is recomputed over the data as patched so far (C4), and its XOR with the received parity
byte is the delta (C5). `de` is the data and the error count. -/
def fecShard (de : List Byte × Nat) (j : Nat) (p : Byte) : List Byte × Nat :=
  let delta := fecFold de.1 j ^^^ p
  if delta = 0 then de else (fecPatch de.1 delta, de.2 + 1)

/-- The shards of R242 in order, from shard j on. DEDUCED (log entry 21): by R242 a tampered last parity byte alone, or any one
tampered parity byte where n = 0, counts one error, where R245 says that a tampered parity byte alone makes e = 2 for P = 2. -/
def fecShards (de : List Byte × Nat) (j : Nat) : List Byte → List Byte × Nat
  | [] => de
  | p :: ps => fecShards (fecShard de j p) (j + 1) ps

/-- The completion of R242 on received data d and parity bytes p, before Emit. -/
def fecDecodeResult (d p : List Byte) : Completion :=
  let de := fecShards (d, 0) 0 p
  let ok := decide (2 * de.2 ≤ p.length)
  { rc := if ok then .success else .fecUncorrectable
    res0 := resWord de.2
    res1 := if ok then 1 else 0
    res2 := resWord d.length
    out := de.1 }

/-- R242. -/
def performFecDecode (s : State) : Perform :=
  if srcCount s < parityCount s then raiseRc .badArg
  else withSrcBytes s (srcCount s) fun b =>
    emit s { rc := .success }
      (fecDecodeResult (b.take (srcCount s - parityCount s)) (b.drop (srcCount s - parityCount s)))

/-- FEC_DECODE (R242). -/
def execFecDecode (s : State) : Host.Outcome State Fault Refusal :=
  finish s (prechecked .fecDecode s fun _ => performFecDecode s)

end Sys2Proof.Machine
end

