-- ==== Sys2Proof/Machine/Crc.lean ====
section
/-! DEFINITION. The CRC-16 unit (41_crc16.md): the function of R170 and the operation CRC16. -/

namespace Sys2Proof.Machine

/-- One of the eight shifts of R170: the bit tested is the one the shift vacates. -/
def crcShift (c : BitVec 16) : BitVec 16 := if c.getLsbD 15 then (c <<< 1) ^^^ Config.crcPolynomial else c <<< 1

/-- n shifts. -/
def crcShifts : Nat → BitVec 16 → BitVec 16
  | 0, c => c
  | n + 1, c => crcShifts n (crcShift c)

/-- One byte into the register: XOR into the high byte, then eight shifts (R170). -/
def crcByte (c : BitVec 16) (d : Byte) : BitVec 16 := crcShifts 8 (c ^^^ (d.setWidth 16 <<< 8))

/-- CRC16(P) (R170). -/
def crc16 (p : List Byte) : BitVec 16 := p.foldl crcByte Config.crcInitial

/-- R171. -/
def performCrc16 (s : State) : Perform :=
  withSrcBytes s (srcCount s) fun p => .ok { rc := .success, res0 := (crc16 p).setWidth 32 }

/-- CRC16 (R171). -/
def execCrc16 (s : State) : Host.Outcome State Fault Refusal :=
  finish s (prechecked .crc16 s fun _ => performCrc16 s)

end Sys2Proof.Machine
end

