-- ==== Sys2Proof/Machine/Framer.lean ====
section
/-! DEFINITION. The packet framer and parser (42_framer.md, R110): FRAME_CREATE and FRAME_PARSE. -/

namespace Sys2Proof.Machine

/-- `packet(T, F, P)` (R110): START, TYPE, FLAGS, LENGTH, PAYLOAD, CHECKSUM, END, each MSB-first, with no escaping (R181). -/
def packet (t f : Byte) (p : List Byte) : List Bool :=
  byteBits Config.startSentinel ++ byteBits t ++ byteBits f ++ bitsMSB 16 p.length ++ bytesBits p
    ++ bitsMSB 16 (crc16 p).toNat ++ byteBits Config.endSentinel

/-- R180. -/
def performFrameCreate (s : State) : Perform :=
  let n := srcCount s
  if field s.arg0 31 8 ≠ 0 ∨ field s.arg1 31 8 ≠ 0 then raiseRc .badArg
  else if Config.maxPayload < n then raiseRc .badLength
  else withSrcBytes s n fun p =>
    emit s { rc := .success }
      { rc := .success, res0 := resWord (64 + 8 * n), res1 := (crc16 p).setWidth 32
        out := packBits (packet (lowByte s.arg0) (lowByte s.arg1) p) }

/-- FRAME_CREATE (R180). -/
def execFrameCreate (s : State) : Host.Outcome State Fault Refusal :=
  finish s (prechecked .frameCreate s fun _ => performFrameCreate s)

/-- HUNT (R184, R185): the least bit offset at which eight 1 bits stand. -/
def huntStart : List Bool → Option Nat
  | [] => none
  | x :: rest =>
    if (x :: rest).take 8 = byteBits Config.startSentinel then some 0 else (huntStart rest).map (· + 1)

/-- The number that `w` bits of a stream are, from an offset on (R185). -/
abbrev streamField (b : List Bool) (off w : Nat) : Nat := valMSB ((b.drop off).take w)

/-- PAYLOAD (R184, R185): N bytes of a stream from an offset on. -/
def streamBytes (b : List Bool) (off : Nat) : Nat → List Byte
  | 0 => []
  | n + 1 => BitVec.ofNat 8 (streamField b off 8) :: streamBytes b (off + 8) n

/-- The parser after HUNT and HEADER (R185), in the order of R188: BAD_LENGTH, INCOMPLETE_PACKET, CHECKSUM_MISMATCH,
INVALID_END_FRAME. `hdr` holds the RES registers that HEADER names. -/
def parseBody (bound : Nat) (b : List Bool) (st n : Nat) (hdr : Completion) : Completion :=
  if bound < n then { hdr with rc := .badLength }
  else if b.length < st + 64 + 8 * n then { hdr with rc := .incompletePacket }
  else
    let p := streamBytes b (st + 40) n
    if streamField b (st + 40 + 8 * n) 16 ≠ (crc16 p).toNat then { hdr with rc := .checksumMismatch }
    else if streamField b (st + 56 + 8 * n) 8 ≠ Config.endSentinel.toNat then { hdr with rc := .invalidEndFrame }
    else { hdr with rc := .success, out := p }

/-- The completion of R185 on a stream, before Emit: a failing parse keeps the RES registers already named. -/
def parsePacket (bound : Nat) (b : List Bool) : Completion :=
  match huntStart b with
  | none => { rc := .frameNotFound, res3 := Config.noneWord }
  | some st =>
    if b.length < st + 40 then { rc := .incompletePacket, res3 := resWord st }
    else
      parseBody bound b st (streamField b (st + 24) 16)
        { rc := .success
          res0 := resWord (streamField b (st + 8) 8)
          res1 := resWord (streamField b (st + 16) 8)
          res2 := resWord (streamField b (st + 24) 16)
          res3 := resWord st }

/-- R185. A failing parse has no output, so its Emit never overflows. -/
def performFrameParse (s : State) : Perform :=
  withSrcBits s (srcCount s) fun b => emit s (parsePacket s.maxLen.toNat b) (parsePacket s.maxLen.toNat b)

/-- FRAME_PARSE (R185). -/
def execFrameParse (s : State) : Host.Outcome State Fault Refusal :=
  finish s (prechecked .frameParse s fun _ => performFrameParse s)

end Sys2Proof.Machine
end

