-- ==== Sys2Proof/Machine/Lz77.lean ====
section
/-! DEFINITION. The LZ77 encoder and decoder (44_lz77.md, R114, R115): LZ_COMPRESS, LZ_DECOMPRESS, COMPRESS_DATA. -/

namespace Sys2Proof.Machine

/-- A compression token (R114). -/
inductive LzToken where
  | literal (b : Byte)
  | copy (len dist : Nat)
deriving DecidableEq, Repr

/-- Is a token a Match (R220)? -/
def LzToken.isCopy : LzToken → Bool
  | .literal _ => false
  | .copy _ _ => true

/-! ### The encoder (R215–R218) -/

/-- The inner loop of R215: how far two suffixes of the data agree, up to a cap. -/
def runLength : Nat → List Byte → List Byte → Nat
  | 0, _, _ => 0
  | _ + 1, [], _ => 0
  | _ + 1, _ :: _, [] => 0
  | cap + 1, x :: xs, y :: ys => if x = y then runLength cap xs ys + 1 else 0

/-- The candidate starts for position i, farthest first (R215, R216). -/
def candidates (i : Nat) : List Nat := List.range' (i - Config.lzMaxDistance) (i - (i - Config.lzMaxDistance))

/-- One candidate: a strictly longer run replaces the best so far (R215). -/
def considerCandidate (d : List Byte) (i : Nat) (best : Nat × Nat) (j : Nat) : Nat × Nat :=
  let l := runLength Config.lzMaxLength (d.drop j) (d.drop i)
  if best.1 < l then (l, i - j) else best

/-- bestLen and bestDist at position i (R215). -/
def bestMatch (d : List Byte) (i : Nat) : Nat × Nat := (candidates i).foldl (considerCandidate d i) (0, 0)

/-- The loop of R215 from position i on; every turn advances, so as many turns as there are bytes are enough. -/
def tokensFrom (d : List Byte) : Nat → Nat → List LzToken
  | 0, _ => []
  | fuel + 1, i =>
    match d.drop i with
    | [] => []
    | b :: _ =>
      let best := bestMatch d i
      if Config.lzMinMatch ≤ best.1 then .copy best.1 best.2 :: tokensFrom d fuel (i + best.1)
      else .literal b :: tokensFrom d fuel (i + 1)

/-- `LZTokens(D)` (R215). -/
def lzTokens (d : List Byte) : List LzToken := tokensFrom d d.length 0

/-- The bits of one token (R114, R218). -/
def tokenBits : LzToken → List Bool
  | .literal b => false :: byteBits b
  | .copy len dist => true :: (bitsMSB 8 len ++ bitsMSB 12 dist)

/-- `LZSer(toks)` (R218). -/
def lzSer (toks : List LzToken) : List Bool := toks.flatMap tokenBits

/-! ### The decoder (R219) -/

/-- What `LZReplay` answers (R219). -/
inductive Replay where
  /-- The bytes produced and the number of tokens read. -/
  | done (out : List Byte) (tokens : Nat)
  /-- The bit offset of the token that cannot be decoded. -/
  | malformed (k : Nat)
deriving DecidableEq, Repr

/-- `repeat len times: out <- out ++ [out[len(out) − dist]]` (R219). -/
def copyBytes : Nat → Nat → List Byte → List Byte
  | 0, _, out => out
  | len + 1, dist, out => copyBytes len dist (out ++ [out.getD (out.length - dist) 0])

/-- The loop of R219: `b` is the rest of the stream, from bit offset k on. Every turn reads a bit, so as many turns as there
are bits are enough. -/
def replayFrom : Nat → List Bool → Nat → List Byte → Nat → Replay
  | _, [], _, out, t => .done out t
  | 0, _ :: _, k, _, _ => .malformed k
  | fuel + 1, false :: rest, k, out, t =>
    if rest.length < 8 then .malformed k
    else replayFrom fuel (rest.drop 8) (k + 9) (out ++ [BitVec.ofNat 8 (valMSB (rest.take 8))]) (t + 1)
  | fuel + 1, true :: rest, k, out, t =>
    if rest.length < 20 then .malformed k
    else
      let len := valMSB (rest.take 8)
      let dist := valMSB ((rest.drop 8).take 12)
      if dist = 0 ∨ out.length < dist then .malformed k
      else replayFrom fuel (rest.drop 20) (k + 21) (copyBytes len dist out) (t + 1)

/-- `LZReplay(s)` (R219). -/
def lzReplay (b : List Bool) : Replay := replayFrom b.length b 0 [] 0

/-! ### Operations -/

/-- R220. -/
def performLzCompress (s : State) : Perform :=
  withSrcBytes s (srcCount s) fun d =>
    let toks := lzTokens d
    let b := lzSer toks
    emit s { rc := .success }
      { rc := .success, res0 := resWord b.length, res1 := resWord toks.length
        res2 := resWord (toks.countP LzToken.isCopy), out := packBits b }

/-- LZ_COMPRESS (R220). -/
def execLzCompress (s : State) : Host.Outcome State Fault Refusal :=
  finish s (prechecked .lzCompress s fun _ => performLzCompress s)

/-- R222: the whole stream is decoded before any byte is written. -/
def performLzDecompress (s : State) : Perform :=
  withSrcBits s (srcCount s) fun b =>
    match lzReplay b with
    | .malformed k => .ok { rc := .lzMalformed, res3 := resWord k }
    | .done out t =>
      emit s { rc := .success, res1 := resWord t }
        { rc := .success, res0 := resWord out.length, res1 := resWord t, out := out }

/-- LZ_DECOMPRESS (R222). -/
def execLzDecompress (s : State) : Host.Outcome State Fault Refusal :=
  finish s (prechecked .lzDecompress s fun _ => performLzDecompress s)

/-- The uncompressed outcome of R224, with the reason and the length of the token stream (0 where none was built). -/
def emitPlain (s : State) (d : List Byte) (reason streamBits : Nat) : Perform :=
  emit s { rc := .success, res3 := resWord streamBits }
    { rc := .compressionNotBeneficial, res0 := 0, res1 := resWord (8 * d.length), res2 := resWord reason
      res3 := resWord streamBits, out := d }

/-- R224. -/
def performCompressData (s : State) : Perform :=
  withSrcBytes s (srcCount s) fun d =>
    if s.compEn = false then emitPlain s d 1 0
    else if d.length < Config.compressMinBytes then emitPlain s d 2 0
    else
      let b := lzSer (lzTokens d)
      if b.length < 8 * d.length then
        emit s { rc := .success, res3 := resWord b.length }
          { rc := .success, res0 := 1, res1 := resWord b.length, res2 := 0, res3 := resWord b.length, out := packBits b }
      else emitPlain s d 3 b.length

/-- COMPRESS_DATA (R224). -/
def execCompressData (s : State) : Host.Outcome State Fault Refusal :=
  finish s (prechecked .compressData s fun _ => performCompressData s)

end Sys2Proof.Machine
end

