-- ==== Sys2Proof/Machine/Dispatch.lean ====
section
/-! DEFINITION. The core's step of one operation: one arm per row of the opcode map (R91, R97). -/

namespace Sys2Proof.Machine

def exec (i : Instr) (s : State) : Host.Outcome State Fault Refusal :=
  match i with
  | .luma => Sys2Proof.Machine.execLuma s
  | .threshold => Sys2Proof.Machine.execThreshold s
  | .bitDecide => Sys2Proof.Machine.execBitDecide s
  | .parBit => Sys2Proof.Machine.execParBit s
  | .parCheck => Sys2Proof.Machine.execParCheck s
  | .parEncode => Sys2Proof.Machine.execParEncode s
  | .parDecode => Sys2Proof.Machine.execParDecode s
  | .crc16 => Sys2Proof.Machine.execCrc16 s
  | .frameCreate => Sys2Proof.Machine.execFrameCreate s
  | .frameParse => Sys2Proof.Machine.execFrameParse s
  | .chunk => Sys2Proof.Machine.execChunk s
  | .reassemble => Sys2Proof.Machine.execReassemble s
  | .lzCompress => Sys2Proof.Machine.execLzCompress s
  | .lzDecompress => Sys2Proof.Machine.execLzDecompress s
  | .compressData => Sys2Proof.Machine.execCompressData s
  | .fecEncode => Sys2Proof.Machine.execFecEncode s
  | .fecDecode => Sys2Proof.Machine.execFecDecode s
  | .envWrap => Sys2Proof.Machine.execEnvWrap s
  | .envUnwrap => Sys2Proof.Machine.execEnvUnwrap s

end Sys2Proof.Machine
end

