-- ==== Sys2Proof/Machine/HostPort.lean ====
section
/-! DEFINITION. What the host and the platform can do: register accesses (R21, R22, R42), the byte-wide buffer port (R61,
R77), soft reset (R303) and the reset input (R302). -/

namespace Sys2Proof.Machine

/-- The names of the register map (R21). -/
inductive RegName where
  | id | ctrl | status | cmd
  | srcAddr | srcLen | dstAddr | dstCap
  | arg0 | arg1 | arg2 | arg3
  | res0 | res1 | res2 | res3
  | cfgFec | cfgChunk | cfgComp | cfgMargin | cfgBitdur | cfgMaxlen
  | reserved
deriving DecidableEq, Repr

/-- The register map (R21); the offsets it does not list, 0x58–0x7C, are reserved. -/
def regMap : List (Nat × RegName) :=
  [(0x00, .id), (0x04, .ctrl), (0x08, .status), (0x0C, .cmd),
   (0x10, .srcAddr), (0x14, .srcLen), (0x18, .dstAddr), (0x1C, .dstCap),
   (0x20, .arg0), (0x24, .arg1), (0x28, .arg2), (0x2C, .arg3),
   (0x30, .res0), (0x34, .res1), (0x38, .res2), (0x3C, .res3),
   (0x40, .cfgFec), (0x44, .cfgChunk), (0x48, .cfgComp), (0x4C, .cfgMargin), (0x50, .cfgBitdur), (0x54, .cfgMaxlen)]

/-- The register that an access of `size` bytes at an offset reaches; none where the access is not an aligned 32-bit word
at 0x00–0x7C (R22). -/
def regAt (offset size : Nat) : Option RegName :=
  if size = 4 ∧ offset % 4 = 0 ∧ offset < 0x80 then some ((regMap.lookup offset).getD .reserved) else none

/-- What a register read returns (R22–R34). It changes nothing (R73). -/
def readReg (s : State) : RegName → Word
  | .id => Config.idWord
  | .ctrl => ctrlWord s
  | .status => statusWord s
  | .cmd => s.cmd
  | .srcAddr => s.srcAddr
  | .srcLen => s.srcLen
  | .dstAddr => s.dstAddr
  | .dstCap => s.dstCap
  | .arg0 => s.arg0
  | .arg1 => s.arg1
  | .arg2 => s.arg2
  | .arg3 => s.arg3
  | .res0 => s.res0
  | .res1 => s.res1
  | .res2 => s.res2
  | .res3 => s.res3
  | .cfgFec => cfgFecWord s
  | .cfgChunk => s.cfgChunk
  | .cfgComp => cfgCompWord s
  | .cfgMargin => s.cfgMargin
  | .cfgBitdur => s.cfgBitdur
  | .cfgMaxlen => cfgMaxlenWord s
  | .reserved => 0

/-- The operation in progress, if the command word names one (R93, R97). -/
def runningOp (s : State) : Option Instr :=
  match s.phase, decode s.cmd with
  | .busy, .ok i => some i
  | _, _ => none

/-- Is an address in the SRC or DST range of the running operation (R77, R96)? -/
def inRunningRange (s : State) (a : Nat) : Bool :=
  match runningOp s with
  | some i => inSrcRange i s a || inDstRange i s a
  | none => false

/-- The existing addresses of an aborted operation's DST range (R96, R303). -/
def abortedRange (s : State) : List Nat :=
  match runningOp s with
  | some i =>
    if writesRam i then
      List.range' s.dstAddr.toNat (min (s.dstAddr.toNat + s.dstCap.toNat) s.bufBytes - s.dstAddr.toNat)
    else []
  | none => []

/-- One byte of an aborted operation's DST range: left as it is, or set to any byte and initialised (R303). -/
def abortByte (fresh : Nat) (m : Memory) (a : Nat) : Memory :=
  match Config.abortedByte fresh a with
  | none => m
  | some v => writeByte m a v

/-- Buffer RAM after a soft reset has aborted the operation in progress (R303). -/
def abortedMem (s : State) : Memory := (abortedRange s).foldl (abortByte s.freeCount) s.mem

/-- Soft reset (R303), one atomic step. -/
def softReset (s : State) : State :=
  match s.phase with
  | .idle => resetRegisters s
  | .busy => { resetRegisters s with mem := abortedMem s, freeCount := s.freeCount + 1 }

/-- A write that is dropped while BUSY and otherwise taken (R42). -/
def unlessBusy (s t : State) : State := if busy s then dropWrite s else t

/-- A register write (R22–R34, R42). Writes to read-only and reserved registers are ignored; CTRL and STATUS are written in
every phase; the others are dropped while BUSY. -/
def writeReg (s : State) (v : Word) : RegName → State
  | .id | .res0 | .res1 | .res2 | .res3 | .reserved => s
  | .ctrl => if v.getLsbD 1 then softReset s else { s with irqEn := v.getLsbD 0 }
  | .status => { s with done := w1c s.done (v.getLsbD 1), werr := w1c s.werr (v.getLsbD 3) }
  | .cmd => unlessBusy s (acceptCommand s v)
  | .srcAddr => unlessBusy s { s with srcAddr := v }
  | .srcLen => unlessBusy s { s with srcLen := v }
  | .dstAddr => unlessBusy s { s with dstAddr := v }
  | .dstCap => unlessBusy s { s with dstCap := v }
  | .arg0 => unlessBusy s { s with arg0 := v }
  | .arg1 => unlessBusy s { s with arg1 := v }
  | .arg2 => unlessBusy s { s with arg2 := v }
  | .arg3 => unlessBusy s { s with arg3 := v }
  | .cfgFec => unlessBusy s { s with dataShards := v.extractLsb' 0 8, parityShards := v.extractLsb' 8 8 }
  | .cfgChunk => unlessBusy s { s with cfgChunk := v }
  | .cfgComp => unlessBusy s { s with compEn := v.getLsbD 0 }
  | .cfgMargin => unlessBusy s { s with cfgMargin := v }
  | .cfgBitdur => unlessBusy s { s with cfgBitdur := v }
  | .cfgMaxlen => unlessBusy s { s with maxLen := v.extractLsb' 0 16 }

/-- A host read of a register (R22, R73). -/
def hostRegRead (s : State) (offset size : Nat) : State :=
  match regAt offset size with
  | some r => { s with readData := some (readReg s r) }
  | none => recordFault s .busError

/-- A host write of a register (R22). -/
def hostRegWrite (s : State) (offset size : Nat) (v : Word) : State :=
  match regAt offset size with
  | some r => writeReg s v r
  | none => recordFault s .busError

/-- The fault of R77, where a host access touches the running operation's ranges; `ok` is the state without a race. -/
def unlessRace (s : State) (a : Nat) (raced ok : State) : State :=
  if inRunningRange s a then recordFault raced .hostRace else ok

/-- A host read of a buffer byte (R61, R77). An access that faults has no effect (R276). -/
def hostBufRead (s : State) (a : Nat) : State :=
  if s.bufBytes ≤ a then recordFault s .busError
  else
    match readByte s.mem a with
    | none => unlessRace s a (recordFault s .uninitRead) (recordFault s .uninitRead)
    | some b => unlessRace s a s { s with readData := some (b.setWidth 32) }

/-- A host write of a buffer byte (R61, R77). -/
def hostBufWrite (s : State) (a : Nat) (v : Byte) : State :=
  if s.bufBytes ≤ a then recordFault s .busError
  else unlessRace s a s { s with mem := writeByte s.mem a v }

/-- One event of the host or the platform. The core's turn changes nothing by itself. -/
def hostEvent (s : State) : Input → State
  | .regRead offset size => hostRegRead s offset size
  | .regWrite offset size v => hostRegWrite s offset size v
  | .bufRead a => hostBufRead s a
  | .bufWrite a v => hostBufWrite s a v
  | .resetInput => resetByInput s
  | .coreTurn => s

end Sys2Proof.Machine
end

