-- ==== Sys2Proof/Machine/Agents.lean ====
section
/-! DEFINITION. The two agents of R18, each as one atomic move: the core's turn (R97) and the host's (R76), and how a
command comes to stand where the core reads it. -/

namespace Sys2Proof.Machine

/-- The core performs the command in CMD: the operation it names, or ILLEGAL_OPCODE (R93, R97). -/
def runCommand (s : State) : Host.Outcome State Fault Refusal :=
  match decode s.cmd with
  | .ok i => exec i s
  | .error _ => completeIllegal s

/-- Has the core a step to take (R97)? A stuck core has none. -/
def coreEnabled (s : State) : Bool := busy s && !s.stuck

/-- The core's turn: its one enabled step while BUSY (R97); otherwise it waits (R300). -/
def coreTurn (s : State) : Host.Outcome State Fault Refusal := if coreEnabled s then runCommand s else .next s

/-- Nothing is pending from the host: the core moves (R311). A stuck core leaves no agent a step (R97, I8; log entry 4). -/
def lastTurn (s : State) : Host.Outcome State Fault Refusal :=
  if busy s && s.stuck then .fault .coreStuck else coreTurn s

/-- The next pending event happens: the core's turn, or the host's (R76). -/
def takeInput (s : State) : Input → Host.Outcome State Fault Refusal
  | .coreTurn => coreTurn s
  | e => .next (hostEvent s e)

/-- The turn that makes the core move next: none is needed where nothing is pending. -/
def coreFirst : List Input → List Input
  | [] => []
  | pending => .coreTurn :: pending

/-- The state in which the core's next step performs the command word w: as right after its acceptance (R90). -/
def loadCommand (s : State) (w : Word) : State := { acceptCommand s w with inputs := coreFirst s.inputs }

/-- The command word of a table word of `nbits` bits. -/
def tableWord (nbits w : Nat) : Word := BitVec.ofNat 32 (w % 2 ^ nbits)

end Sys2Proof.Machine
end

