-- ==== Sys2Proof/Machine/Step.lean ====
section
/-! DEFINITION. One step of the system of R18: the next pending event, or the core's turn where none is pending. -/

namespace Sys2Proof.Machine

/-- One atomic event (R76). The host's pending events, in its program order, stand in `inputs`; a `coreTurn` among them, or
the end of the list, lets the core move. -/
def step (s : State) : Host.Outcome State Fault Refusal :=
  match s.inputs with
  | [] => lastTurn s
  | e :: rest => takeInput { s with inputs := rest } e

/-- s with the command word w accepted, so that the very next step performs it (R90; log entry 5). -/
def State.withFetchWord (s : State) (nbits w : Nat) : State := loadCommand s (tableWord nbits w)

end Sys2Proof.Machine
end

