-- ==== Sys2Proof/Safety.lean ====
section
/-! DEFINITION. The terms the statements use: what it is for an operation to end with a result code (R97), to halt at a
fault (R97), to pass the common checks (R98); the invariants of the machine; and what a run without faults is (R276). -/

namespace Sys2Proof.Machine

/-! ### How an operation ends -/

/-- Buffer RAM after an operation, byte by byte: the output stands from DST_ADDR on, and every other byte reads as before
(R65). With no output, every byte reads as before. -/
def StoresOutput (s t : State) (out : List Byte) : Prop :=
  ∀ a, readByte t.mem a =
    if s.dstAddr.toNat ≤ a ∧ a < s.dstAddr.toNat + out.length then out[a - s.dstAddr.toNat]? else readByte s.mem a

/-- t is s after the core's step of R97 with these results: RC, VALID, BUSY, DONE, phase, RES0–RES3 and the output bytes
are as given, and nothing else has changed. -/
def CompletedAs (s t : State) (rc : ResultCode) (r0 r1 r2 r3 : Word) (out : List Byte) : Prop :=
  t.rc = rc ∧ t.valid = rc.valid ∧ t.done = true ∧ t.phase = .idle
    ∧ t.res0 = r0 ∧ t.res1 = r1 ∧ t.res2 = r2 ∧ t.res3 = r3
    ∧ StoresOutput s t out
    ∧ t = { s with
        mem := t.mem, rc := t.rc, valid := t.valid, done := t.done, phase := t.phase
        res0 := t.res0, res1 := t.res1, res2 := t.res2, res3 := t.res3 }

/-- The operation answers a next state, which is its completion with these results. -/
def Ends (i : Instr) (s : State) (rc : ResultCode) (r0 r1 r2 r3 : Word) (out : List Byte) : Prop :=
  ∃ t, exec i s = .next t ∧ CompletedAs s t rc r0 r1 r2 r3 out

/-- t is s after the core has met `fault UNINIT_READ` (R97): the fault is recorded, the core is stuck, nothing else has
changed. -/
def HaltedAt (s t : State) : Prop := t = { s with faults := { s.faults with uninitRead := true }, stuck := true }

/-- The operation answers a next state in which the core has halted at UNINIT_READ. -/
def Halts (i : Instr) (s : State) : Prop := ∃ t, exec i s = .next t ∧ HaltedAt s t

/-! ### The common checks (R98) -/

/-- The SRC range of n bytes fits (R66). -/
abbrev SrcFits (s : State) (n : Nat) : Prop := s.srcAddr.toNat + n ≤ s.bufBytes

/-- The DST range fits (R66). -/
abbrev DstFits (s : State) : Prop := s.dstAddr.toNat + s.dstCap.toNat ≤ s.bufBytes

/-- The SRC range of n bytes and the DST range share no byte. -/
abbrev RangesApart (s : State) (n : Nat) : Prop :=
  n = 0 ∨ s.dstCap.toNat = 0 ∨ s.srcAddr.toNat + n ≤ s.dstAddr.toNat ∨ s.dstAddr.toNat + s.dstCap.toNat ≤ s.srcAddr.toNat

/-- R98 for an operation that reads n bytes and writes none: `own` is what its own rule says after the checks. -/
def ReaderChecks (i : Instr) (s : State) (n : Nat) (own : Prop) : Prop :=
  (¬ SrcFits s n → Ends i s .addrRange 0 0 0 0 []) ∧ (SrcFits s n → own)

/-- R98 for an operation that reads n bytes and writes buffer RAM: `own` is what its own rule says after the checks. -/
def WriterChecks (i : Instr) (s : State) (n : Nat) (own : Prop) : Prop :=
  (¬ SrcFits s n → Ends i s .addrRange 0 0 0 0 [])
    ∧ (SrcFits s n → ¬ DstFits s → Ends i s .addrRange 0 0 0 0 [])
    ∧ (SrcFits s n → DstFits s → ¬ RangesApart s n → Ends i s .overlap 0 0 0 0 [])
    ∧ (SrcFits s n → DstFits s → RangesApart s n → own)

/-- R99: the operation ends in DST_OVERFLOW with the RES registers named so far, or in its result. -/
def Emits (i : Instr) (s : State) (o0 o1 o2 o3 : Word) (rc : ResultCode) (r0 r1 r2 r3 : Word) (out : List Byte) : Prop :=
  (s.dstCap.toNat < out.length → Ends i s .dstOverflow o0 o1 o2 o3 [])
    ∧ (out.length ≤ s.dstCap.toNat → Ends i s rc r0 r1 r2 r3 out)

/-! ### What an operation reads, said through single bytes and bits (R62, R64, R67, R68, R119) -/

/-- Some byte of the n bytes from SRC_ADDR on is not initialised. -/
abbrev SrcUninit (s : State) (n : Nat) : Prop := ∃ k, k < n ∧ readByte s.mem (s.srcAddr.toNat + k) = none

/-- The n bytes from SRC_ADDR on are d (R64). -/
abbrev SrcBytesAre (s : State) (n : Nat) (d : List Byte) : Prop :=
  d.length = n ∧ ∀ k, k < n → readByte s.mem (s.srcAddr.toNat + k) = d[k]?

/-- The stream of n bits at SRC_ADDR is b, and every byte of it is initialised, pad bits included (R68). -/
abbrev SrcBitsAre (s : State) (n : Nat) (b : List Bool) : Prop :=
  b.length = n ∧ (∀ k, k < (n + 7) / 8 → (readByte s.mem (s.srcAddr.toNat + k)).isSome = true)
    ∧ ∀ k, k < n → bitRead s.mem s.srcAddr.toNat k = b[k]?

/-- The n samples from SRC_ADDR on are v (R119). -/
abbrev SrcSamplesAre (s : State) (n : Nat) (v : List Nat) : Prop :=
  v.length = n ∧ ∀ k, k < n → memRead s.mem (s.srcAddr.toNat + 4 * k) 4 = v[k]?

/-- The operation reads n bytes: it halts where one is not initialised; otherwise `own` holds of them. -/
def OnSrcBytes (i : Instr) (s : State) (n : Nat) (own : List Byte → Prop) : Prop :=
  (SrcUninit s n → Halts i s) ∧ ∀ d, SrcBytesAre s n d → own d

/-- The operation reads a stream of n bits: it halts where a byte of it is not initialised; otherwise `own` holds of it. -/
def OnSrcBits (i : Instr) (s : State) (n : Nat) (own : List Bool → Prop) : Prop :=
  (SrcUninit s ((n + 7) / 8) → Halts i s) ∧ ∀ b, SrcBitsAre s n b → own b

/-- The operation reads n samples: it halts where a byte of them is not initialised; otherwise `own` holds of them. -/
def OnSamples (i : Instr) (s : State) (n : Nat) (own : List Nat → Prop) : Prop :=
  (SrcUninit s (4 * n) → Halts i s) ∧ ∀ v, SrcSamplesAre s n v → own v

/-! ### Words of the data formats -/

/-- `s[off .. off+w)` (R11). -/
abbrev slice (b : List Bool) (off w : Nat) : List Bool := (b.drop off).take w

/-- The least offset at which eight 1 bits stand: HUNT of R185. -/
def IsFirstStart (b : List Bool) (st : Nat) : Prop :=
  (∀ k, k < 8 → b[st + k]? = some true) ∧ ∀ i, i < st → ∃ k, k < 8 ∧ b[i + k]? ≠ some true

/-- The bytes of a chunk record whose reserved bytes 13–15 hold anything (R118). -/
def receivedRecord (r : ChunkRecord × Byte × Byte × Byte) : List Byte :=
  beBytes 4 r.1.seq ++ beBytes 4 r.1.total ++ beBytes 4 r.1.data.length ++ [r.1.typ, r.2.1, r.2.2.1, r.2.2.2] ++ r.1.data

/-- The fields of a record fit their 32-bit places (R118). -/
def RecordFits (r : ChunkRecord × Byte × Byte × Byte) : Prop :=
  r.1.seq < 2 ^ 32 ∧ r.1.total < 2 ^ 32 ∧ r.1.data.length < 2 ^ 32

/-- From positions i and j on, the data agrees for exactly l bytes, within the cap of 255 and the end of the data: the
inner loop of R215. -/
def AgreesFor (d : List Byte) (i j l : Nat) : Prop :=
  l ≤ 255 ∧ i + l ≤ d.length ∧ (∀ q, q < l → d[j + q]? = d[i + q]?)
    ∧ (l = 255 ∨ i + l = d.length ∨ d[j + l]? ≠ d[i + l]?)

/-- bestLen and bestDist of R215 at position i: no candidate agrees for longer than `len`; where `len` is not 0, the
candidate at `dist` agrees for `len` and every farther one for less; where it is 0, `dist` is 0. -/
def IsBestMatch (d : List Byte) (i len dist : Nat) : Prop :=
  (∀ j l, j < i → i ≤ j + 4095 → AgreesFor d i j l → l ≤ len)
    ∧ (len ≠ 0 → 1 ≤ dist ∧ dist ≤ 4095 ∧ dist ≤ i ∧ AgreesFor d i (i - dist) len
        ∧ ∀ j l, j < i - dist → i ≤ j + 4095 → AgreesFor d i j l → l < len)
    ∧ (len = 0 → dist = 0)

/-- A token list is the outer loop of R215 from position i on: a literal where the best match is shorter than 3, and then
one byte on; the best match where it is at least 3, and then its length on; the end where the data ends. -/
def GreedyFrom (d : List Byte) : Nat → List LzToken → Prop
  | i, [] => d.length ≤ i
  | i, .literal b :: ts =>
    i < d.length ∧ d[i]? = some b ∧ (∃ len dist, IsBestMatch d i len dist ∧ len < 3) ∧ GreedyFrom d (i + 1) ts
  | i, .copy len dist :: ts => i < d.length ∧ IsBestMatch d i len dist ∧ 3 ≤ len ∧ GreedyFrom d (i + len) ts

/-- `out'` is `out` after `repeat len times: out <- out ++ [out[len(out) − dist]]` (R219), byte by byte. -/
def IsCopyOf (out : List Byte) (len dist : Nat) (out' : List Byte) : Prop :=
  out'.length = out.length + len ∧ (∀ q, q < out.length → out'[q]? = out[q]?)
    ∧ ∀ q, q < len → out'[out.length + q]? = out'[out.length + q - dist]?

/-- The loop of R219 on the stream b, as a relation: from bit offset k, with `out` produced by t tokens, it answers r. -/
inductive ReplaysTo (b : List Bool) : Nat → List Byte → Nat → Replay → Prop
  /-- The stream is at its end. -/
  | stop {k out t} (hk : b.length ≤ k) : ReplaysTo b k out t (.done out t)
  /-- A whole literal. -/
  | literal {k out t r} (tag : b[k]? = some false) (whole : k + 9 ≤ b.length)
      (rest : ReplaysTo b (k + 9) (out ++ [BitVec.ofNat 8 (valMSB (slice b (k + 1) 8))]) (t + 1) r) : ReplaysTo b k out t r
  /-- A literal that the stream cuts short. -/
  | partialLiteral {k out t} (tag : b[k]? = some false) (short : b.length < k + 9) : ReplaysTo b k out t (.malformed k)
  /-- A match that the stream cuts short. -/
  | partialMatch {k out t} (tag : b[k]? = some true) (short : b.length < k + 21) : ReplaysTo b k out t (.malformed k)
  /-- A match at distance 0, or one that reaches before the first byte. -/
  | badDistance {k out t} (tag : b[k]? = some true) (whole : k + 21 ≤ b.length)
      (bad : valMSB (slice b (k + 9) 12) = 0 ∨ out.length < valMSB (slice b (k + 9) 12)) : ReplaysTo b k out t (.malformed k)
  /-- A whole match at a distance that exists, of any length. -/
  | copy {k out out' t r} (tag : b[k]? = some true) (whole : k + 21 ≤ b.length)
      (far : 1 ≤ valMSB (slice b (k + 9) 12)) (near : valMSB (slice b (k + 9) 12) ≤ out.length)
      (copied : IsCopyOf out (valMSB (slice b (k + 1) 8)) (valMSB (slice b (k + 9) 12)) out')
      (rest : ReplaysTo b (k + 21) out' (t + 1) r) : ReplaysTo b k out t r

/-- The XOR of `D[i] ⊕ (j + 1)` over the data (R240). -/
def foldOf (d : List Byte) (j : Nat) : Byte := (d.map fun x => x ^^^ BitVec.ofNat 8 (j + 1)).foldr (· ^^^ ·) 0

/-- The result codes each operation can end with, SUCCESS first (R268). -/
def possibleCodes : Instr → List ResultCode
  | .luma => [.success, .badArg]
  | .threshold => [.success, .addrRange, .calibrationInsufficient]
  | .bitDecide => [.success, .addrRange, .overlap, .badArg, .dstOverflow]
  | .parBit => [.success, .addrRange]
  | .parCheck => [.success, .addrRange, .parityMismatch]
  | .parEncode => [.success, .addrRange, .overlap, .dstOverflow]
  | .parDecode => [.success, .addrRange, .overlap, .dstOverflow, .parityMismatch]
  | .crc16 => [.success, .addrRange]
  | .frameCreate => [.success, .addrRange, .overlap, .badArg, .badLength, .dstOverflow]
  | .frameParse => [.success, .addrRange, .overlap, .frameNotFound, .incompletePacket, .badLength, .checksumMismatch,
      .invalidEndFrame, .dstOverflow]
  | .chunk => [.success, .addrRange, .overlap, .badArg, .dstOverflow]
  | .reassemble => [.success, .addrRange, .overlap, .badArg, .incompleteChunks, .dstOverflow]
  | .lzCompress => [.success, .addrRange, .overlap, .dstOverflow]
  | .lzDecompress => [.success, .addrRange, .overlap, .lzMalformed, .dstOverflow]
  | .compressData => [.success, .addrRange, .overlap, .dstOverflow, .compressionNotBeneficial]
  | .fecEncode => [.success, .addrRange, .overlap, .dstOverflow]
  | .fecDecode => [.success, .addrRange, .overlap, .badArg, .dstOverflow, .fecUncorrectable]
  | .envWrap => [.success, .addrRange, .overlap, .badArg, .dstOverflow]
  | .envUnwrap => [.success, .addrRange, .overlap, .badEnvelope, .dstOverflow]

/-! ### Whose turn it is, and the ranges a host access must keep out of -/

/-- The core moves next: nothing is pending, or a `coreTurn` comes first (R311). -/
abbrev CoreHasTheTurn (s : State) : Prop := s.inputs = [] ∨ ∃ rest, s.inputs = .coreTurn :: rest

/-- The address lies in the SRC range or the DST range of operation i (R96, R77). -/
abbrev InOperationRanges (i : Instr) (s : State) (a : Nat) : Prop :=
  (readsRam i = true ∧ s.srcAddr.toNat ≤ a ∧ a < s.srcAddr.toNat + srcBytes i s)
    ∨ (writesRam i = true ∧ s.dstAddr.toNat ≤ a ∧ a < s.dstAddr.toNat + s.dstCap.toNat)

/-! ### Invariants and safe runs -/

/-- The STATUS fields agree with one another (R25, R36, R90, R97, R265, R266): while BUSY, DONE and VALID are 0 and RC is
0x00; when DONE, VALID is `valid(RC)`; and VALID is never 1 beside another code. -/
def StatusConsistent (s : State) : Prop :=
  (s.phase = .busy → s.done = false ∧ s.valid = false ∧ s.rc = .success)
    ∧ (s.done = true → s.valid = s.rc.valid)
    ∧ (s.valid = true → s.rc.valid = true)

/-- A stuck core is BUSY and its fault is recorded (R97, R276). -/
def StuckConsistent (s : State) : Prop := s.stuck = true → s.phase = .busy ∧ s.faults.uninitRead = true

/-- Buffer RAM is in canonical form and lists only addresses that exist (R35). -/
def MemoryConsistent (s : State) : Prop := Memory.wf s.mem = true ∧ ∀ c ∈ s.mem, c.1 < s.bufBytes

/-- BUF_BYTES is a value R9 allows. -/
def BufferSizeLegal (s : State) : Prop := 1 ≤ s.bufBytes ∧ s.bufBytes ≤ 2 ^ 28

/-- The fault record is empty: the runs that R276 makes claims about record no fault. -/
def FaultFree (s : State) : Prop := s.faults = ⟨false, false, false⟩

/-- Events that reset the core: the reset input, and a write of 1 to CTRL.SOFT_RESET (R302, R303). -/
def IsReset : Input → Prop
  | .resetInput => True
  | .regWrite offset size v => offset = 0x04 ∧ size = 4 ∧ v.getLsbD 1 = true
  | _ => False

end Sys2Proof.Machine
end

