-- ==== Sys2Proof/Certificates/Slice0/Obligations.lean ====
section
/-! DEFINITION. The statements for the provers, from the numbered rules of spec/. An operation's statement has the form of
its rule: the common checks (R98), then the operation's own checks in order, then Emit (R99) and the result; in every case
its conclusion is that the operation ANSWERS A NEXT STATE, which it describes whole (`Ends`, `Halts`). -/

open Sys2Proof Sys2Proof.Machine

/-! ### Command words -/

/-- Decode and encode agree: every operation's command word is legal and decodes to the operation; no other word does; and
the decoder refuses exactly the words that R93 calls illegal. -/
def Obligations.DecodeAndEncodeAgree : Prop :=
  (∀ i : Instr, commandWordWellFormed (encode i) = true ∧ decode (encode i) = .ok i)
    ∧ (∀ (w : Word) (i : Instr), decode w = .ok i → w = encode i)
    ∧ ∀ w : Word, (∃ e, decode w = .error e) ↔
        w.extractLsb' 8 24 ≠ 0 ∨ w.extractLsb' 0 8 ∉ ([0x01, 0x02, 0x03, 0x04, 0x05, 0x06, 0x07, 0x08, 0x10, 0x11, 0x18,
          0x19, 0x20, 0x21, 0x22, 0x28, 0x29, 0x30, 0x31] : List (BitVec 8))

/-- R91: the opcode map, word by word, and every other opcode unassigned. -/
def Obligations.OpcodeMapWords : Prop :=
  decode 0x00000001 = .ok .luma ∧ decode 0x00000002 = .ok .threshold ∧ decode 0x00000003 = .ok .bitDecide
    ∧ decode 0x00000004 = .ok .parBit ∧ decode 0x00000005 = .ok .parCheck ∧ decode 0x00000006 = .ok .parEncode
    ∧ decode 0x00000007 = .ok .parDecode ∧ decode 0x00000008 = .ok .crc16 ∧ decode 0x00000010 = .ok .frameCreate
    ∧ decode 0x00000011 = .ok .frameParse ∧ decode 0x00000018 = .ok .chunk ∧ decode 0x00000019 = .ok .reassemble
    ∧ decode 0x00000020 = .ok .lzCompress ∧ decode 0x00000021 = .ok .lzDecompress
    ∧ decode 0x00000022 = .ok .compressData ∧ decode 0x00000028 = .ok .fecEncode ∧ decode 0x00000029 = .ok .fecDecode
    ∧ decode 0x00000030 = .ok .envWrap ∧ decode 0x00000031 = .ok .envUnwrap
    ∧ ∀ op : BitVec 8, op ∉ ([0x01, 0x02, 0x03, 0x04, 0x05, 0x06, 0x07, 0x08, 0x10, 0x11, 0x18, 0x19, 0x20, 0x21, 0x22,
        0x28, 0x29, 0x30, 0x31] : List (BitVec 8)) → decode (op.setWidth 32) = .error .unassignedOpcode

/-! ### The step -/

/-- A step runs the decoded command: while BUSY and not stuck, when the core has the turn (nothing is pending, or a
`coreTurn` comes first), the step is `exec` of the operation that CMD names. And `withFetchWord` puts a command where the
very next step performs it: the state is as right after its acceptance (R90). -/
def Obligations.StepRunsDecodedCommand : Prop :=
  (∀ (s : State) (i : Instr), s.phase = .busy → s.stuck = false → decode s.cmd = .ok i →
      (s.inputs = [] → step s = exec i s)
        ∧ ∀ rest, s.inputs = .coreTurn :: rest → step s = exec i { s with inputs := rest })
    ∧ ∀ (s : State) (i : Instr),
        step (s.withFetchWord 32 (encode i).toNat) =
          exec i { s with cmd := encode i, done := false, valid := false, rc := .success, phase := .busy, stuck := false }

/-- R93: an illegal command word completes with ILLEGAL_OPCODE; no buffer RAM is read (an uninitialised byte does not
matter) or written, RES0–RES3 are 0, and no other check is made; when nothing is pending, and when a `coreTurn` comes before
the pending events. -/
def Obligations.IllegalCommandWordCompletes : Prop :=
  ∀ s : State, s.phase = .busy → s.stuck = false →
    (s.cmd.extractLsb' 8 24 ≠ 0 ∨ s.cmd.extractLsb' 0 8 ∉ ([0x01, 0x02, 0x03, 0x04, 0x05, 0x06, 0x07, 0x08, 0x10, 0x11,
      0x18, 0x19, 0x20, 0x21, 0x22, 0x28, 0x29, 0x30, 0x31] : List (BitVec 8))) →
    (s.inputs = [] → ∃ t, step s = .next t ∧ CompletedAs s t .illegalOpcode 0 0 0 0 [])
      ∧ ∀ rest, s.inputs = .coreTurn :: rest →
          ∃ t, step s = .next t ∧ CompletedAs { s with inputs := rest } t .illegalOpcode 0 0 0 0 []

/-! ### Bit codec -/

/-- R140. -/
def Obligations.LumaResult : Prop :=
  decode 0x00000001 = .ok .luma ∧ ∀ s : State,
    (s.arg0.extractLsb' 24 8 ≠ 0 → Ends .luma s .badArg 0 0 0 0 [])
      ∧ (s.arg0.extractLsb' 24 8 = 0 →
          Ends .luma s .success
            (BitVec.ofNat 32 (299 * (s.arg0.extractLsb' 16 8).toNat + 587 * (s.arg0.extractLsb' 8 8).toNat
              + 114 * (s.arg0.extractLsb' 0 8).toNat)) 0 0 0 [])

/-- R141: the threshold is the exact rational NUM/DEN; without samples it is the fixed default, with no margin added. Within
the buffer sizes of R9, NUM < 2^59, so that RES1 and RES0 hold all of it. -/
def Obligations.ThresholdResult : Prop :=
  decode 0x00000002 = .ok .threshold ∧ ∀ s : State,
    ReaderChecks .threshold s (4 * s.srcLen.toNat)
      ((s.srcLen.toNat = 0 → Ends .threshold s .calibrationInsufficient 128000 0 1 0 [])
        ∧ (s.srcLen.toNat ≠ 0 → OnSamples .threshold s s.srcLen.toNat fun v =>
            ∀ num, num = v.sum + s.cfgMargin.toNat * s.srcLen.toNat →
              (BufferSizeLegal s → num < 2 ^ 59)
                ∧ Ends .threshold s .success (BitVec.ofNat 32 (num % 2 ^ 32)) (BitVec.ofNat 32 (num / 2 ^ 32)) s.srcLen
                  s.srcLen []))

/-- R142: a sample is 1 when sample·DEN > NUM, strictly; DEN = 0 is refused before anything is read. -/
def Obligations.BitDecideResult : Prop :=
  decode 0x00000003 = .ok .bitDecide ∧ ∀ s : State,
    WriterChecks .bitDecide s (4 * s.srcLen.toNat)
      ((s.arg2 = 0 → Ends .bitDecide s .badArg 0 0 0 0 [])
        ∧ (s.arg2 ≠ 0 → OnSamples .bitDecide s s.srcLen.toNat fun v =>
            ∀ b, b = v.map (fun x => decide (s.arg1.toNat * 2 ^ 32 + s.arg0.toNat < x * s.arg2.toNat)) →
              Emits .bitDecide s 0 0 0 0 .success s.srcLen (BitVec.ofNat 32 (b.count true)) 0 0 (packBits b)))

/-- R150. -/
def Obligations.ParityBitResult : Prop :=
  decode 0x00000004 = .ok .parBit ∧ ∀ s : State,
    ReaderChecks .parBit s ((s.srcLen.toNat + 7) / 8)
      (OnSrcBits .parBit s s.srcLen.toNat fun b =>
        Ends .parBit s .success (BitVec.ofNat 32 (b.count true % 2)) (BitVec.ofNat 32 (b.count true)) 0 0 [])

/-- R151: any length but 9 is invalid and reads no byte. -/
def Obligations.ParityCheckResult : Prop :=
  decode 0x00000005 = .ok .parCheck ∧ ∀ s : State,
    ReaderChecks .parCheck s ((s.srcLen.toNat + 7) / 8)
      ((s.srcLen ≠ 9 → Ends .parCheck s .parityMismatch 0 0 0 0 [])
        ∧ (s.srcLen = 9 → OnSrcBits .parCheck s 9 fun b =>
            (b.count true % 2 = 0 → Ends .parCheck s .success 1 (BitVec.ofNat 32 (b.count true)) 0 0 [])
              ∧ (b.count true % 2 = 1 → Ends .parCheck s .parityMismatch 0 (BitVec.ofNat 32 (b.count true)) 0 0 [])))

/-- R152: each byte becomes its eight bits, MSB-first, and the bit that makes the count of 1s even. -/
def Obligations.ParityEncodeResult : Prop :=
  decode 0x00000006 = .ok .parEncode ∧ ∀ s : State,
    WriterChecks .parEncode s s.srcLen.toNat
      (OnSrcBytes .parEncode s s.srcLen.toNat fun d =>
        Emits .parEncode s 0 0 0 0 .success (BitVec.ofNat 32 (9 * s.srcLen.toNat)) 0 0 0
          (packBits (d.flatMap fun x => bitsMSB 8 x.toNat ++ [decide ((bitsMSB 8 x.toNat).count true % 2 = 1)])))

/-- R153: the data bytes of all complete frames are written whether they passed or failed; F, the first failing frame, 9F
and L are reported, on DST_OVERFLOW too. -/
def Obligations.ParityDecodeResult : Prop :=
  decode 0x00000007 = .ok .parDecode ∧ ∀ s : State,
    WriterChecks .parDecode s ((s.srcLen.toNat + 7) / 8)
      (OnSrcBits .parDecode s s.srcLen.toNat fun b =>
        ∀ (k r fails : Nat) (bad : Nat → Bool) (first : Word),
          k = s.srcLen.toNat / 9 → r = s.srcLen.toNat % 9 →
          (∀ i, bad i = decide ((slice b (9 * i) 9).count true % 2 = 1)) →
          fails = ((List.range k).filter bad).length + (if 0 < r then 1 else 0) →
          (∀ i, i < k → bad i = true → (∀ j, j < i → bad j = false) → first = BitVec.ofNat 32 i) →
          ((∀ i, i < k → bad i = false) → first = if 0 < r then BitVec.ofNat 32 k else 0xFFFFFFFF) →
          Emits .parDecode s (BitVec.ofNat 32 fails) first (BitVec.ofNat 32 (9 * fails)) s.srcLen
            (if fails = 0 then .success else .parityMismatch)
            (BitVec.ofNat 32 fails) first (BitVec.ofNat 32 (9 * fails)) s.srcLen
            ((List.range k).map fun i => BitVec.ofNat 8 (valMSB (slice b (9 * i) 8))))

/-- Each byte's frame is 9 bits long and has an even count of 1 bits, and decoding the frames of a byte string gives the
string back with no failure. -/
def Obligations.ParityFramesRoundTrip : Prop :=
  ∀ d : List Byte,
    (∀ x ∈ d, (byteFrame x).length = 9 ∧ (byteFrame x).count true % 2 = 0)
      ∧ parityFailures (byteFrames d) = 0 ∧ (splitFrames (byteFrames d)).map frameData = d

/-! ### CRC -/

/-- R170, R171: the register starts at 0xFFFF, takes each byte into its high byte and shifts eight times, with the polynomial
XORed in where bit 15 was 1; and the operation reports it. -/
def Obligations.Crc16Result : Prop :=
  decode 0x00000008 = .ok .crc16
    ∧ crc16 [] = 0xFFFF
    ∧ (∀ (p : List Byte) (d : Byte) (c : Nat → BitVec 16), c 0 = crc16 p ^^^ BitVec.ofNat 16 (d.toNat * 2 ^ 8) →
        (∀ k, k < 8 → c (k + 1) = if 2 ^ 15 ≤ (c k).toNat then BitVec.ofNat 16 ((c k).toNat * 2 % 2 ^ 16) ^^^ 0x1021
          else BitVec.ofNat 16 ((c k).toNat * 2 % 2 ^ 16)) →
        crc16 (p ++ [d]) = c 8)
    ∧ ∀ s : State,
      ReaderChecks .crc16 s s.srcLen.toNat
        (OnSrcBytes .crc16 s s.srcLen.toNat fun p => Ends .crc16 s .success ((crc16 p).setWidth 32) 0 0 0 [])

/-- R173: flipping any single bit of a byte string changes its CRC16; for "HELLO", the 40 single-bit flips give 40 distinct
values, none of them 0x49D6. -/
def Obligations.CrcDetectsEverySingleBitFlip : Prop :=
  (∀ (p : List Byte) (i k : Nat), i < p.length → k < 8 →
      crc16 (p.set i (p.getD i 0 ^^^ BitVec.twoPow 8 k)) ≠ crc16 p)
    ∧ ∀ hello : List Byte, hello = [0x48, 0x45, 0x4C, 0x4C, 0x4F] →
        ∀ flips, flips = (List.range 40).map (fun n => crc16 (hello.set (n / 8) (hello.getD (n / 8) 0 ^^^ BitVec.twoPow 8 (n % 8)))) →
          flips.Nodup ∧ (0x49D6 : BitVec 16) ∉ flips

/-- The remainder property of R170's register: a byte string followed by its own CRC, high byte first, has CRC 0. -/
def Obligations.CrcOfStringAndItsCrcIsZero : Prop :=
  ∀ p : List Byte, crc16 (p ++ [(crc16 p).extractLsb' 8 8, (crc16 p).extractLsb' 0 8]) = 0

/-! ### Framer -/

/-- R180: START, TYPE, FLAGS, LENGTH, the payload as it is, its CRC and END; a payload over 65535 bytes is refused before
any byte is read. -/
def Obligations.FrameCreateResult : Prop :=
  decode 0x00000010 = .ok .frameCreate ∧ ∀ s : State,
    WriterChecks .frameCreate s s.srcLen.toNat
      (((s.arg0.extractLsb' 8 24 ≠ 0 ∨ s.arg1.extractLsb' 8 24 ≠ 0) → Ends .frameCreate s .badArg 0 0 0 0 [])
        ∧ (s.arg0.extractLsb' 8 24 = 0 → s.arg1.extractLsb' 8 24 = 0 → 65535 < s.srcLen.toNat →
            Ends .frameCreate s .badLength 0 0 0 0 [])
        ∧ (s.arg0.extractLsb' 8 24 = 0 → s.arg1.extractLsb' 8 24 = 0 → s.srcLen.toNat ≤ 65535 →
            OnSrcBytes .frameCreate s s.srcLen.toNat fun p =>
              Emits .frameCreate s 0 0 0 0 .success (BitVec.ofNat 32 (64 + 8 * s.srcLen.toNat))
                ((crc16 p).setWidth 32) 0 0
                (packBits (bitsMSB 8 0xFF ++ bitsMSB 8 s.arg0.toNat ++ bitsMSB 8 s.arg1.toNat
                  ++ bitsMSB 16 s.srcLen.toNat ++ (p.flatMap fun x => bitsMSB 8 x.toNat)
                  ++ bitsMSB 16 (crc16 p).toNat ++ bitsMSB 8 0x00))))

/-- R185, with the order of R188 and the bound of R186. -/
def Obligations.FrameParseResult : Prop :=
  decode 0x00000011 = .ok .frameParse ∧ ∀ s : State,
    WriterChecks .frameParse s ((s.srcLen.toNat + 7) / 8)
      (OnSrcBits .frameParse s s.srcLen.toNat fun b =>
        ((¬ ∃ st, IsFirstStart b st) → Ends .frameParse s .frameNotFound 0 0 0 0xFFFFFFFF [])
          ∧ ∀ st, IsFirstStart b st →
            (b.length < st + 40 → Ends .frameParse s .incompletePacket 0 0 0 (BitVec.ofNat 32 st) [])
              ∧ (st + 40 ≤ b.length → ∀ (n : Nat) (ty fl len at_ : Word) (p : List Byte),
                  ty = BitVec.ofNat 32 (valMSB (slice b (st + 8) 8)) →
                  fl = BitVec.ofNat 32 (valMSB (slice b (st + 16) 8)) →
                  n = valMSB (slice b (st + 24) 16) → len = BitVec.ofNat 32 n → at_ = BitVec.ofNat 32 st →
                  p = (List.range n).map (fun j => BitVec.ofNat 8 (valMSB (slice b (st + 40 + 8 * j) 8))) →
                  (s.maxLen.toNat < n → Ends .frameParse s .badLength ty fl len at_ [])
                    ∧ (n ≤ s.maxLen.toNat → b.length < st + 64 + 8 * n →
                        Ends .frameParse s .incompletePacket ty fl len at_ [])
                    ∧ (n ≤ s.maxLen.toNat → st + 64 + 8 * n ≤ b.length →
                        valMSB (slice b (st + 40 + 8 * n) 16) ≠ (crc16 p).toNat →
                        Ends .frameParse s .checksumMismatch ty fl len at_ [])
                    ∧ (n ≤ s.maxLen.toNat → st + 64 + 8 * n ≤ b.length →
                        valMSB (slice b (st + 40 + 8 * n) 16) = (crc16 p).toNat →
                        valMSB (slice b (st + 56 + 8 * n) 8) ≠ 0 →
                        Ends .frameParse s .invalidEndFrame ty fl len at_ [])
                    ∧ (n ≤ s.maxLen.toNat → st + 64 + 8 * n ≤ b.length →
                        valMSB (slice b (st + 40 + 8 * n) 16) = (crc16 p).toNat →
                        valMSB (slice b (st + 56 + 8 * n) 8) = 0 →
                        Emits .frameParse s ty fl len at_ .success ty fl len at_ p)))

/-- R189: FRAME_PARSE of the stream FRAME_CREATE wrote gives TYPE, FLAGS, LENGTH, START at 0 and the payload. u is any state
with that buffer RAM whose operands point at the stream. -/
def Obligations.FrameRoundTrip : Prop :=
  ∀ (s t u : State) (p : List Byte),
    SrcBytesAre s s.srcLen.toNat p → exec .frameCreate s = .next t → t.rc = .success →
    u.mem = t.mem → u.srcAddr = s.dstAddr → u.srcLen = t.res0 → p.length ≤ u.maxLen.toNat →
    p.length ≤ u.dstCap.toNat → SrcFits u (p.length + 8) → DstFits u → RangesApart u (p.length + 8) →
    Ends .frameParse u .success s.arg0 s.arg1 (BitVec.ofNat 32 p.length) 0 p

/-! ### Chunker -/

/-- R200. -/
def Obligations.ChunkResult : Prop :=
  decode 0x00000018 = .ok .chunk ∧ ∀ s : State,
    WriterChecks .chunk s s.srcLen.toNat
      (((s.arg0.extractLsb' 8 24 ≠ 0 ∨ s.cfgChunk = 0) → Ends .chunk s .badArg 0 0 0 0 [])
        ∧ (s.arg0.extractLsb' 8 24 = 0 → s.cfgChunk ≠ 0 → OnSrcBytes .chunk s s.srcLen.toNat fun d =>
            ∀ k, k = max 1 ((s.srcLen.toNat + s.cfgChunk.toNat - 1) / s.cfgChunk.toNat) →
              Emits .chunk s 0 0 0 0 .success (BitVec.ofNat 32 k) (BitVec.ofNat 32 (16 * k + s.srcLen.toNat)) 0 0
                ((List.range k).flatMap fun i =>
                  beBytes 4 i ++ beBytes 4 k
                    ++ beBytes 4 (min s.srcLen.toNat ((i + 1) * s.cfgChunk.toNat) - i * s.cfgChunk.toNat)
                    ++ [s.arg0.extractLsb' 0 8, 0, 0, 0]
                    ++ (d.drop (i * s.cfgChunk.toNat)).take s.cfgChunk.toNat)))

/-- R202: a list that does not split into whole records is BAD_ARG; records whose TOTAL fields agree, whose number is TOTAL
and whose SEQ fields are exactly 0 … TOTAL−1 in any order give the data in SEQ order; every other list of records is
INCOMPLETE_CHUNKS. The reserved bytes of a record do not matter. THE MODEL'S READING (log entry 11): R202 does not say what
RES holds on DST_OVERFLOW; here it keeps RES1, RES2 and RES3, which its pseudocode names before Emit. -/
def Obligations.ReassembleResult : Prop :=
  decode 0x00000019 = .ok .reassemble ∧ ∀ s : State,
    WriterChecks .reassemble s s.srcLen.toNat
      (OnSrcBytes .reassemble s s.srcLen.toNat fun b =>
        ((¬ ∃ rs : List (ChunkRecord × Byte × Byte × Byte), (∀ r ∈ rs, RecordFits r) ∧ b = rs.flatMap receivedRecord) →
            Ends .reassemble s .badArg 0 0 0 0 [])
          ∧ ∀ rs : List (ChunkRecord × Byte × Byte × Byte), (∀ r ∈ rs, RecordFits r) → b = rs.flatMap receivedRecord →
              ((¬ (rs ≠ [] ∧ (∀ r ∈ rs, r.1.total = rs.length)
                    ∧ (rs.map fun r => r.1.seq).Perm (List.range rs.length))) →
                Ends .reassemble s .incompleteChunks 0 0 0 (BitVec.ofNat 32 rs.length) [])
              ∧ ∀ x xs out, (x :: xs).Perm rs → (∀ r ∈ rs, r.1.total = rs.length) →
                  (x :: xs).map (fun r => r.1.seq) = List.range rs.length →
                  out = (x :: xs).flatMap (fun r => r.1.data) →
                  Emits .reassemble s 0 (x.1.typ.setWidth 32) (BitVec.ofNat 32 rs.length) (BitVec.ofNat 32 rs.length)
                    .success (BitVec.ofNat 32 out.length) (x.1.typ.setWidth 32) (BitVec.ofNat 32 rs.length)
                    (BitVec.ofNat 32 rs.length) out)

/-- REASSEMBLE of the list CHUNK wrote gives the data back (u is any state with that buffer RAM whose operands point at the
list), and removing any one record from the list gives INCOMPLETE_CHUNKS. -/
def Obligations.ChunkRoundTripAndIncompleteness : Prop :=
  (∀ (s t u : State) (d : List Byte),
      SrcBytesAre s s.srcLen.toNat d → exec .chunk s = .next t → t.rc = .success →
      u.mem = t.mem → u.srcAddr = s.dstAddr → u.srcLen = t.res1 → d.length ≤ u.dstCap.toNat →
      SrcFits u t.res1.toNat → DstFits u → RangesApart u t.res1.toNat →
      Ends .reassemble u .success (BitVec.ofNat 32 d.length) s.arg0 t.res0 t.res0 d)
    ∧ ∀ (s : State) (d : List Byte) (m i : Nat) (ty : Byte),
      0 < m → d.length < 2 ^ 32 → chunkCount d.length m < 2 ^ 32 → i < chunkCount d.length m →
      SrcBytesAre s s.srcLen.toNat (recordsBytes ((chunksOf m ty d).eraseIdx i)) →
      SrcFits s s.srcLen.toNat → DstFits s → RangesApart s s.srcLen.toNat →
      Ends .reassemble s .incompleteChunks 0 0 0 (BitVec.ofNat 32 (chunkCount d.length m - 1)) []

/-! ### LZ77 -/

/-- The search of R215 finds the longest match of the window, and among equals the farthest: at every position it answers
bestLen and bestDist. -/
def Obligations.LzSearchFindsTheFarthestLongestMatch : Prop :=
  ∀ (d : List Byte) (i len dist : Nat), i < d.length → bestMatch d i = (len, dist) → IsBestMatch d i len dist

/-- R221: replaying the serialised tokens of a byte string gives the string and the number of tokens; and LZ_DECOMPRESS of
what LZ_COMPRESS wrote returns the data. u is any state with that buffer RAM whose operands point at the stream. -/
def Obligations.LzRoundTrip : Prop :=
  (∀ d : List Byte, lzReplay (lzSer (lzTokens d)) = .done d (lzTokens d).length)
    ∧ ∀ (s t u : State) (d : List Byte), BufferSizeLegal s →
      SrcBytesAre s s.srcLen.toNat d → exec .lzCompress s = .next t → t.rc = .success →
      u.mem = t.mem → u.srcAddr = s.dstAddr → u.srcLen = t.res0 → d.length ≤ u.dstCap.toNat →
      SrcFits u ((t.res0.toNat + 7) / 8) → DstFits u → RangesApart u ((t.res0.toNat + 7) / 8) →
      Ends .lzDecompress u .success (BitVec.ofNat 32 d.length) t.res1 0 0 d

/-- R220, with the greedy loop of R215 that makes its tokens (a match where the best one has at least 3 bytes, otherwise a
literal) and the bits of R218 that serialise them. -/
def Obligations.LzCompressResult : Prop :=
  decode 0x00000020 = .ok .lzCompress
  ∧ (∀ d : List Byte, GreedyFrom d 0 (lzTokens d))
  ∧ (lzSer [] = []
    ∧ (∀ (b : Byte) (ts : List LzToken), lzSer (.literal b :: ts) = [false] ++ bitsMSB 8 b.toNat ++ lzSer ts)
    ∧ ∀ (len dist : Nat) (ts : List LzToken),
        lzSer (.copy len dist :: ts) = [true] ++ bitsMSB 8 len ++ bitsMSB 12 dist ++ lzSer ts)
  ∧ (∀ ts : List LzToken, (lzSer ts).length
      = 9 * (ts.filter fun x => !x.isCopy).length + 21 * (ts.filter LzToken.isCopy).length)
  ∧ ∀ s : State,
    WriterChecks .lzCompress s s.srcLen.toNat
      (OnSrcBytes .lzCompress s s.srcLen.toNat fun d =>
        Emits .lzCompress s 0 0 0 0 .success
          (BitVec.ofNat 32 (9 * ((lzTokens d).filter fun x => !x.isCopy).length
            + 21 * ((lzTokens d).filter LzToken.isCopy).length))
          (BitVec.ofNat 32 (lzTokens d).length) (BitVec.ofNat 32 ((lzTokens d).filter LzToken.isCopy).length) 0
          (packBits (lzSer (lzTokens d))))

/-- R222, R219: the whole stream is decoded first, by the loop of R219 (`ReplaysTo`: literals, matches copied byte by byte,
and MALFORMED exactly for a token cut short, distance 0 or a distance beyond the output); a stream that cannot be replayed
reports the token's bit offset, even where the output so far would not have fitted. -/
def Obligations.LzDecompressResult : Prop :=
  decode 0x00000021 = .ok .lzDecompress
  ∧ (∀ (b : List Bool) (r : Replay), lzReplay b = r ↔ ReplaysTo b 0 [] 0 r)
  ∧ ∀ s : State,
    WriterChecks .lzDecompress s ((s.srcLen.toNat + 7) / 8)
      (OnSrcBits .lzDecompress s s.srcLen.toNat fun b =>
        (∀ k, lzReplay b = .malformed k → Ends .lzDecompress s .lzMalformed 0 0 0 (BitVec.ofNat 32 k) [])
          ∧ ∀ out n, lzReplay b = .done out n →
              Emits .lzDecompress s 0 (BitVec.ofNat 32 n) 0 0 .success (BitVec.ofNat 32 out.length) (BitVec.ofNat 32 n)
                0 0 out)

/-- R224. -/
def Obligations.CompressDataResult : Prop :=
  decode 0x00000022 = .ok .compressData ∧ ∀ s : State,
    WriterChecks .compressData s s.srcLen.toNat
      (OnSrcBytes .compressData s s.srcLen.toNat fun d =>
        ∀ (b : List Bool) (bits8 bits : Word), b = lzSer (lzTokens d) → bits = BitVec.ofNat 32 b.length →
          bits8 = BitVec.ofNat 32 (8 * s.srcLen.toNat) →
          (s.compEn = false → Emits .compressData s 0 0 0 0 .compressionNotBeneficial 0 bits8 1 0 d)
            ∧ (s.compEn = true → s.srcLen.toNat < 100 →
                Emits .compressData s 0 0 0 0 .compressionNotBeneficial 0 bits8 2 0 d)
            ∧ (s.compEn = true → 100 ≤ s.srcLen.toNat → b.length < 8 * s.srcLen.toNat →
                Emits .compressData s 0 0 0 bits .success 1 bits 0 bits (packBits b))
            ∧ (s.compEn = true → 100 ≤ s.srcLen.toNat → 8 * s.srcLen.toNat ≤ b.length →
                Emits .compressData s 0 0 0 bits .compressionNotBeneficial 0 bits8 3 bits d))

/-- R225: when COMPRESS_DATA delivers (VALID = 1), its output is never longer than 8n bits, and exactly 8n bits when it is
uncompressed. -/
def Obligations.CompressDataNeverExpands : Prop :=
  ∀ s t : State, BufferSizeLegal s → exec .compressData s = .next t → ¬ HaltedAt s t → t.valid = true →
    t.res1.toNat ≤ 8 * s.srcLen.toNat ∧ (t.res0 = 0 → t.res1.toNat = 8 * s.srcLen.toNat)

/-! ### FEC -/

/-- R241, with the fold of R240 written out. -/
def Obligations.FecEncodeResult : Prop :=
  decode 0x00000028 = .ok .fecEncode ∧ ∀ s : State,
    WriterChecks .fecEncode s s.srcLen.toNat
      (OnSrcBytes .fecEncode s s.srcLen.toNat fun d =>
        Emits .fecEncode s 0 0 0 0 .success (BitVec.ofNat 32 (s.srcLen.toNat + s.parityShards.toNat))
          (s.parityShards.setWidth 32) 0 0 (d ++ (List.range s.parityShards.toNat).map (foldOf d)))

/-- R242: `ds j` and `es j` are the data and the error count before shard j; each shard's fold is recomputed over the data
as patched so far. The data is written whether the decode succeeds or not. -/
def Obligations.FecDecodeResult : Prop :=
  decode 0x00000029 = .ok .fecDecode ∧ ∀ s : State,
    WriterChecks .fecDecode s s.srcLen.toNat
      ((s.srcLen.toNat < s.parityShards.toNat → Ends .fecDecode s .badArg 0 0 0 0 [])
        ∧ (s.parityShards.toNat ≤ s.srcLen.toNat → OnSrcBytes .fecDecode s s.srcLen.toNat fun b =>
            ∀ (n : Nat) (ds : Nat → List Byte) (es : Nat → Nat) (delta : Nat → Byte),
              n = s.srcLen.toNat - s.parityShards.toNat → ds 0 = b.take n → es 0 = 0 →
              (∀ j, j < s.parityShards.toNat → delta j = foldOf (ds j) j ^^^ b.getD (n + j) 0) →
              (∀ j, j < s.parityShards.toNat → delta j = 0 → ds (j + 1) = ds j ∧ es (j + 1) = es j) →
              (∀ j, j < s.parityShards.toNat → delta j ≠ 0 → es (j + 1) = es j + 1
                ∧ ds (j + 1) = if n = 0 then ds j else (ds j).modify ((delta j).toNat % n) (· ^^^ delta j)) →
              (2 * es s.parityShards.toNat ≤ s.parityShards.toNat →
                Emits .fecDecode s 0 0 0 0 .success (BitVec.ofNat 32 (es s.parityShards.toNat)) 1 (BitVec.ofNat 32 n) 0
                  (ds s.parityShards.toNat))
              ∧ (s.parityShards.toNat < 2 * es s.parityShards.toNat →
                Emits .fecDecode s 0 0 0 0 .fecUncorrectable (BitVec.ofNat 32 (es s.parityShards.toNat)) 0
                  (BitVec.ofNat 32 n) 0 (ds s.parityShards.toNat))))

/-- R243: decoding an untampered block reports no correction and success and gives the data back; with P ≥ 2, one tampered
data byte is reported as one correction and success, and the data is restored only where the tamper modulo the length is the
tampered index. Of the function, and of the operation: u is any state with the same P, the buffer RAM that FEC_ENCODE left
(or that RAM with data byte i tampered with x), and operands that point at the block. -/
def Obligations.FecUntamperedAndOneTamper : Prop :=
  (∀ (s t u : State) (d : List Byte),
    SrcBytesAre s s.srcLen.toNat d → exec .fecEncode s = .next t → t.rc = .success →
    u.parityShards = s.parityShards → u.srcAddr = s.dstAddr → u.srcLen = t.res0 → d.length ≤ u.dstCap.toNat →
    SrcFits u t.res0.toNat → DstFits u → RangesApart u t.res0.toNat →
      (u.mem = t.mem → Ends .fecDecode u .success 0 1 (BitVec.ofNat 32 d.length) 0 d)
      ∧ ∀ (i : Nat) (x : Byte), 2 ≤ s.parityShards.toNat → i < d.length → x ≠ 0 →
          (∀ a, readByte u.mem a =
            if a = s.dstAddr.toNat + i then some (d.getD i 0 ^^^ x) else readByte t.mem a) →
          ∃ out, Ends .fecDecode u .success 1 1 (BitVec.ofNat 32 d.length) 0 out
            ∧ (out = d ↔ x.toNat % d.length = i))
  ∧ ∀ (d : List Byte) (p : Nat), p ≤ 255 →
    (fecDecodeResult d (parityBytes d p)).rc = .success ∧ (fecDecodeResult d (parityBytes d p)).res0 = 0
      ∧ (fecDecodeResult d (parityBytes d p)).out = d
      ∧ ∀ (i : Nat) (x : Byte), 2 ≤ p → i < d.length → x ≠ 0 →
          (fecDecodeResult (d.set i (d.getD i 0 ^^^ x)) (parityBytes d p)).rc = .success
            ∧ (fecDecodeResult (d.set i (d.getD i 0 ^^^ x)) (parityBytes d p)).res0 = 1
            ∧ ((fecDecodeResult (d.set i (d.getD i 0 ^^^ x)) (parityBytes d p)).out = d ↔ x.toNat % d.length = i)

/-! ### Envelope -/

/-- R256. -/
def Obligations.EnvWrapResult : Prop :=
  decode 0x00000030 = .ok .envWrap ∧ ∀ s : State,
    WriterChecks .envWrap s s.srcLen.toNat
      ((s.arg0.extractLsb' 2 30 ≠ 0 → Ends .envWrap s .badArg 0 0 0 0 [])
        ∧ (s.arg0.extractLsb' 2 30 = 0 → OnSrcBytes .envWrap s s.srcLen.toNat fun q =>
            Emits .envWrap s 0 0 0 0 .success (BitVec.ofNat 32 (s.srcLen.toNat + 2)) 0 0 0
              ([if s.arg0.getLsbD 1 then 0x31 else 0x30, if s.arg0.getLsbD 0 then 0x31 else 0x30] ++ q)))

/-- R257. THE MODEL'S READING (log entry 11): R257 does not say what RES holds on DST_OVERFLOW; here RES0 keeps the mode,
which its pseudocode names before Emit. -/
def Obligations.EnvUnwrapResult : Prop :=
  decode 0x00000031 = .ok .envUnwrap ∧ ∀ s : State,
    WriterChecks .envUnwrap s s.srcLen.toNat
      ((s.srcLen.toNat < 2 → Ends .envUnwrap s .badEnvelope 0 0 0 0 [])
        ∧ (2 ≤ s.srcLen.toNat → OnSrcBytes .envUnwrap s s.srcLen.toNat fun b =>
            ∀ (b0 b1 : Byte) (q : List Byte), b = b0 :: b1 :: q →
              (¬ ((b0 = 0x30 ∨ b0 = 0x31) ∧ (b1 = 0x30 ∨ b1 = 0x31)) → Ends .envUnwrap s .badEnvelope 0 0 0 0 [])
              ∧ ((b0 = 0x30 ∨ b0 = 0x31) → (b1 = 0x30 ∨ b1 = 0x31) →
                  ∀ mode, mode = BitVec.ofNat 32 (2 * (b0.toNat - 0x30) + (b1.toNat - 0x30)) →
                    Emits .envUnwrap s mode 0 0 0 .success mode (BitVec.ofNat 32 (s.srcLen.toNat - 2)) 0 0 q)))

/-- R258: ENV_UNWRAP of what ENV_WRAP wrote gives the mode and the payload. u is any state with that buffer RAM whose
operands point at the enveloped string. -/
def Obligations.EnvelopeRoundTrip : Prop :=
  ∀ (s t u : State) (q : List Byte),
    SrcBytesAre s s.srcLen.toNat q → exec .envWrap s = .next t → t.rc = .success →
    u.mem = t.mem → u.srcAddr = s.dstAddr → u.srcLen = t.res0 → q.length ≤ u.dstCap.toNat →
    SrcFits u (q.length + 2) → DstFits u → RangesApart u (q.length + 2) →
    Ends .envUnwrap u .success s.arg0 (BitVec.ofNat 32 q.length) 0 0 q

/-! ### What holds of every operation -/

/-- R267: buffer RAM is as before unless the operation writes buffer RAM and ends with one of the outcomes that do. -/
def Obligations.OnlyTheNamedOutcomesWrite : Prop :=
  ∀ (i : Instr) (s t : State), exec i s = .next t →
    t.mem = s.mem
      ∨ (writesRam i = true ∧ t.phase = .idle ∧ t.done = true
          ∧ (t.rc = .success ∨ (i = .compressData ∧ t.rc = .compressionNotBeneficial)
              ∨ (i = .parDecode ∧ t.rc = .parityMismatch) ∨ (i = .fecDecode ∧ t.rc = .fecUncorrectable)))

/-- R265, R266: the numbers of the result codes, and which of them are valid. -/
def Obligations.ResultCodeNumbers : Prop :=
  (∀ (rc : ResultCode) (n : BitVec 8) (v : Bool), (rc, n, v) ∈ ([(.success, 0x00, true), (.calibrationInsufficient, 0x01, true),
      (.compressionNotBeneficial, 0x02, true), (.incompleteChunks, 0x03, false), (.incompletePacket, 0x04, false),
      (.parityMismatch, 0x10, false), (.checksumMismatch, 0x11, false), (.frameNotFound, 0x12, false),
      (.invalidEndFrame, 0x13, false), (.fecUncorrectable, 0x14, false), (.lzMalformed, 0x15, false),
      (.badLength, 0x16, false), (.badEnvelope, 0x17, false), (.illegalOpcode, 0x20, false), (.addrRange, 0x21, false),
      (.overlap, 0x22, false), (.badArg, 0x23, false), (.dstOverflow, 0x24, false)]
      : List (ResultCode × BitVec 8 × Bool)) → rc.code = n ∧ rc.valid = v)
    ∧ ∀ rc rc' : ResultCode, rc.code = rc'.code → rc = rc'

/-- R268: the result codes each operation can produce; R266: VALID is 1 exactly with the three codes that deliver. -/
def Obligations.ResultCodesByOperation : Prop :=
  ∀ (i : Instr) (s t : State), exec i s = .next t →
    HaltedAt s t ∨ (t.done = true ∧ t.rc ∈ possibleCodes i
      ∧ (t.valid = true ↔ t.rc = .success ∨ t.rc = .calibrationInsufficient ∨ t.rc = .compressionNotBeneficial))

/-- An operation changes buffer RAM only inside its DST range, and only bytes that exist (R65, R98). -/
def Obligations.WritesOnlyInsideTheDstRange : Prop :=
  ∀ (i : Instr) (s t : State) (a : Nat), exec i s = .next t → readByte t.mem a ≠ readByte s.mem a →
    writesRam i = true ∧ s.dstAddr.toNat ≤ a ∧ a < s.dstAddr.toNat + s.dstCap.toNat ∧ a < s.bufBytes

/-- An operation's outcome is a function of its SRC bytes, its operand and configuration registers, BUF_BYTES and the opcode
alone: two states that agree on those have a common outcome, whatever else they hold (RES, STATUS, DATA_SHARDS, BITDUR,
buffer RAM outside the SRC range, the fault record). -/
def Obligations.OutcomeDependsOnlyOnItsInputs : Prop :=
  ∀ (i : Instr) (s s' : State),
    s'.bufBytes = s.bufBytes → s'.srcAddr = s.srcAddr → s'.srcLen = s.srcLen → s'.dstAddr = s.dstAddr →
    s'.dstCap = s.dstCap → s'.arg0 = s.arg0 → s'.arg1 = s.arg1 → s'.arg2 = s.arg2 →
    s'.parityShards = s.parityShards → s'.cfgChunk = s.cfgChunk → s'.compEn = s.compEn →
    s'.cfgMargin = s.cfgMargin → s'.maxLen = s.maxLen →
    (∀ k, k < srcBytes i s → readByte s'.mem (s.srcAddr.toNat + k) = readByte s.mem (s.srcAddr.toNat + k)) →
    (∃ rc r0 r1 r2 r3 out, Ends i s rc r0 r1 r2 r3 out ∧ Ends i s' rc r0 r1 r2 r3 out) ∨ (Halts i s ∧ Halts i s')

/-- Repeating a command changes nothing: a completed operation, run again with its operands and SRC bytes as they stand after
it (the state as right after a second acceptance, R90), completes with the same RES, RC and output bytes. -/
def Obligations.RepeatingACommandGivesTheSameState : Prop :=
  ∀ (i : Instr) (s t u : State), exec i s = .next t → ¬ HaltedAt s t →
    u = { t with phase := .busy, done := false, valid := false, rc := .success } →
    ∃ t', exec i u = .next t' ∧ (∀ a, readByte t'.mem a = readByte t.mem a) ∧ t' = { t with mem := t'.mem }

/-- R95: what SRC_LEN counts, which operations read buffer RAM and which write it. -/
def Obligations.OperandSizeTable : Prop :=
  ∀ s : State,
    (∀ i ∈ ([.luma] : List Instr), srcBytes i s = 0 ∧ readsRam i = false ∧ writesRam i = false)
      ∧ (srcBytes .threshold s = 4 * s.srcLen.toNat ∧ srcBytes .bitDecide s = 4 * s.srcLen.toNat)
      ∧ (∀ i ∈ ([.parBit, .parCheck, .parDecode, .frameParse, .lzDecompress] : List Instr),
          srcBytes i s = (s.srcLen.toNat + 7) / 8)
      ∧ (∀ i ∈ ([.parEncode, .crc16, .frameCreate, .chunk, .reassemble, .lzCompress, .compressData, .fecEncode,
          .fecDecode, .envWrap, .envUnwrap] : List Instr), srcBytes i s = s.srcLen.toNat)
      ∧ (∀ i : Instr, i ≠ .luma → readsRam i = true)
      ∧ (∀ i : Instr, writesRam i = false ↔ i ∈ ([.luma, .threshold, .parBit, .parCheck, .crc16] : List Instr))

/-! ### Buffer RAM and bit streams -/

/-- R62, R63: MemRead is the big-endian sum of its bytes, and what MemWrite wrote MemRead reads, every other byte
unchanged. -/
def Obligations.MemReadAndMemWriteAreBigEndian : Prop :=
  (∀ (m : Memory) (addr n : Nat) (d : List Byte), d.length = n → (∀ k, k < n → readByte m (addr + k) = d[k]?) →
      memRead m addr n = some ((List.range n).map fun i => (d.getD i 0).toNat * 2 ^ (8 * (n - 1 - i))).sum)
    ∧ (∀ (m : Memory) (addr n : Nat), (∃ k, k < n ∧ readByte m (addr + k) = none) → memRead m addr n = none)
    ∧ ∀ (m : Memory) (addr n v a : Nat), v < 2 ^ (8 * n) →
        memRead (memWrite m addr n v) addr n = some v
          ∧ (addr ≤ a → a < addr + n → readByte (memWrite m addr n v) a
              = some (BitVec.ofNat 8 (v / 2 ^ (8 * (n - 1 - (a - addr))) % 256)))
          ∧ (a < addr ∨ addr + n ≤ a → readByte (memWrite m addr n v) a = readByte m a)

/-- R69: BitsOut writes ceil(L/8) bytes whole; stream bit k is bit 7 − (k mod 8) of byte k div 8, and every pad bit is 0.
R67: BitRead, and BitWrite, which sets that one bit, initialises its byte and keeps the byte's other bits (where it was
initialised; otherwise they are the free value of log entry 20) and every other byte. -/
def Obligations.BitsOutLayout : Prop :=
  ∀ (m : Memory) (base : Nat) (b : List Bool),
    (packBits b).length = (b.length + 7) / 8
      ∧ (∀ k, k < b.length → bitRead (bitsOut m base b) base k = b[k]?)
      ∧ (∀ k, b.length ≤ k → k < 8 * ((b.length + 7) / 8) → bitRead (bitsOut m base b) base k = some false)
      ∧ (∀ a, (a < base ∨ base + (b.length + 7) / 8 ≤ a) → readByte (bitsOut m base b) a = readByte m a)
      ∧ ∀ (fresh k : Nat) (x : Bool),
        bitRead m base k = (readByte m (base + k / 8)).map (fun v => decide (v.toNat / 2 ^ (7 - k % 8) % 2 = 1))
        ∧ bitRead (bitWrite fresh m base k x) base k = some x
        ∧ (∀ j, j ≠ k → (readByte m (base + j / 8)).isSome = true →
            bitRead (bitWrite fresh m base k x) base j = bitRead m base j)
        ∧ ∀ a, a ≠ base + k / 8 → readByte (bitWrite fresh m base k x) a = readByte m a

/-! ### The host's register accesses -/

/-- A register access that is not an aligned 32-bit word at 0x00–0x7C is BUS_ERROR and has no other effect. -/
def Obligations.BadRegisterAccessIsBusError : Prop :=
  ∀ (s : State) (offset size : Nat) (v : Word) (rest : List Input) (e : Input),
    ¬ (size = 4 ∧ offset % 4 = 0 ∧ offset ≤ 0x7C) → (e = .regRead offset size ∨ e = .regWrite offset size v) →
    s.inputs = e :: rest →
    step s = .next { s with inputs := rest, faults := { s.faults with busError := true } }

/-- What a read of each register returns, in every phase, and that it changes nothing but what the host holds. -/
def Obligations.RegisterReads : Prop :=
  ∀ (s : State) (offset : Nat) (v : Word) (rest : List Input), s.inputs = .regRead offset 4 :: rest →
    (offset, v) ∈ ([(0x00, 0x4C554D07), (0x04, BitVec.ofNat 32 s.irqEn.toNat),
      (0x08, BitVec.ofNat 32 ((if s.phase = .busy then 1 else 0) + 2 * s.done.toNat + 4 * s.valid.toNat
        + 8 * s.werr.toNat + 256 * s.rc.code.toNat)),
      (0x0C, s.cmd), (0x10, s.srcAddr), (0x14, s.srcLen), (0x18, s.dstAddr), (0x1C, s.dstCap),
      (0x20, s.arg0), (0x24, s.arg1), (0x28, s.arg2), (0x2C, s.arg3),
      (0x30, s.res0), (0x34, s.res1), (0x38, s.res2), (0x3C, s.res3),
      (0x40, BitVec.ofNat 32 (s.dataShards.toNat + 256 * s.parityShards.toNat)), (0x44, s.cfgChunk),
      (0x48, BitVec.ofNat 32 s.compEn.toNat), (0x4C, s.cfgMargin), (0x50, s.cfgBitdur),
      (0x54, BitVec.ofNat 32 s.maxLen.toNat),
      (0x58, 0), (0x5C, 0), (0x60, 0), (0x64, 0), (0x68, 0), (0x6C, 0), (0x70, 0), (0x74, 0), (0x78, 0), (0x7C, 0)]
      : List (Nat × Word)) →
    step s = .next { s with inputs := rest, readData := some v }

/-- What a write of each register but CTRL, STATUS and CMD does while IDLE: an operand or CFG_ register takes the value,
less its reserved field; ID, RES0–RES3 and the reserved offsets ignore it. -/
def Obligations.IdleRegisterWrites : Prop :=
  ∀ (s u : State) (offset : Nat) (v : Word) (rest : List Input),
    s.phase = .idle → s.inputs = .regWrite offset 4 v :: rest → u = { s with inputs := rest } →
    (offset = 0x10 → step s = .next { u with srcAddr := v }) ∧ (offset = 0x14 → step s = .next { u with srcLen := v })
      ∧ (offset = 0x18 → step s = .next { u with dstAddr := v }) ∧ (offset = 0x1C → step s = .next { u with dstCap := v })
      ∧ (offset = 0x20 → step s = .next { u with arg0 := v }) ∧ (offset = 0x24 → step s = .next { u with arg1 := v })
      ∧ (offset = 0x28 → step s = .next { u with arg2 := v }) ∧ (offset = 0x2C → step s = .next { u with arg3 := v })
      ∧ (offset = 0x40 → step s = .next { u with
          dataShards := BitVec.ofNat 8 v.toNat, parityShards := BitVec.ofNat 8 (v.toNat / 256) })
      ∧ (offset = 0x44 → step s = .next { u with cfgChunk := v })
      ∧ (offset = 0x48 → step s = .next { u with compEn := decide (v.toNat % 2 = 1) })
      ∧ (offset = 0x4C → step s = .next { u with cfgMargin := v })
      ∧ (offset = 0x50 → step s = .next { u with cfgBitdur := v })
      ∧ (offset = 0x54 → step s = .next { u with maxLen := BitVec.ofNat 16 v.toNat })
      ∧ (offset ∈ [0x00, 0x30, 0x34, 0x38, 0x3C, 0x58, 0x5C, 0x60, 0x64, 0x68, 0x6C, 0x70, 0x74, 0x78, 0x7C] →
          step s = .next u)

/-- R42: while BUSY, a write to CMD, an operand, an ARG or a CFG_ register is dropped and sets WERR; CTRL and STATUS are
written as their rules say (a CTRL write without SOFT_RESET, see R303 for one with it); read-only and reserved registers
ignore the write; every register can be read (the value is that of `RegisterReads`). -/
def Obligations.WritesWhileBusy : Prop :=
  ∀ (s u : State) (offset : Nat) (v : Word) (rest : List Input), s.phase = .busy → u = { s with inputs := rest } →
    (s.inputs = .regWrite offset 4 v :: rest →
      (offset ∈ [0x0C, 0x10, 0x14, 0x18, 0x1C, 0x20, 0x24, 0x28, 0x2C, 0x40, 0x44, 0x48, 0x4C, 0x50, 0x54] →
          step s = .next { u with werr := true })
        ∧ (offset = 0x04 → v.getLsbD 1 = false → step s = .next { u with irqEn := v.getLsbD 0 })
        ∧ (offset = 0x08 → step s = .next { u with done := s.done && !v.getLsbD 1, werr := s.werr && !v.getLsbD 3 })
        ∧ (offset ∈ [0x00, 0x30, 0x34, 0x38, 0x3C, 0x58, 0x5C, 0x60, 0x64, 0x68, 0x6C, 0x70, 0x74, 0x78, 0x7C] →
            step s = .next u))
    ∧ (s.inputs = .regRead offset 4 :: rest → offset % 4 = 0 → offset ≤ 0x7C →
        ∃ x, step s = .next { u with readData := some x })

/-- R90: acceptance of a command word, legal or not; RES and WERR are not changed. -/
def Obligations.CommandAcceptance : Prop :=
  ∀ (s : State) (w : Word) (rest : List Input), s.inputs = .regWrite 0x0C 4 w :: rest →
    (s.phase = .idle → step s = .next { s with
        inputs := rest, cmd := w, done := false, valid := false, rc := .success, phase := .busy, stuck := false })
      ∧ (s.phase = .busy → step s = .next { s with inputs := rest, werr := true })

/-- R280 and R272: irq is DONE ∧ IRQ_EN as a level: a completion raises it when enabled, a write of IRQ_EN shows at once,
and an acknowledge or an accepted command drops it, an acknowledge changing nothing but DONE. -/
def Obligations.InterruptIsALevel : Prop :=
  (∀ s : State, irq s = true ↔ s.done = true ∧ s.irqEn = true)
    ∧ (∀ (i : Instr) (s t : State), exec i s = .next t → HaltedAt s t ∨ irq t = s.irqEn)
    ∧ (∀ (s : State) (v : Word) (rest : List Input), s.inputs = .regWrite 0x04 4 v :: rest → v.getLsbD 1 = false →
        ∃ t, step s = .next t ∧ t = { s with inputs := rest, irqEn := v.getLsbD 0 } ∧ irq t = (s.done && v.getLsbD 0))
    ∧ (∀ (s : State) (rest : List Input), s.inputs = .regWrite 0x08 4 0x00000002 :: rest →
        ∃ t, step s = .next t ∧ t = { s with inputs := rest, done := false } ∧ irq t = false)
    ∧ (∀ (s : State) (w : Word) (rest : List Input), s.phase = .idle → s.inputs = .regWrite 0x0C 4 w :: rest →
        ∃ t, step s = .next t ∧ irq t = false)

/-- R25: writing 1 to DONE or WERR clears it, writing 0 leaves it, in every phase; writes to BUSY, VALID and RC are
ignored. -/
def Obligations.StatusWriteOneToClear : Prop :=
  ∀ (s : State) (v : Word) (rest : List Input), s.inputs = .regWrite 0x08 4 v :: rest →
    step s = .next { s with
      inputs := rest
      done := if v.getLsbD 1 then false else s.done
      werr := if v.getLsbD 3 then false else s.werr }

/-! ### The host's buffer port -/

/-- R61, while no operation is in progress. -/
def Obligations.HostBufferPort : Prop :=
  ∀ (s u : State) (a : Nat) (v : Byte) (rest : List Input), s.phase = .idle → u = { s with inputs := rest } →
    (s.inputs = .bufRead a :: rest ∨ s.inputs = .bufWrite a v :: rest → s.bufBytes ≤ a →
        step s = .next { u with faults := { s.faults with busError := true } })
    ∧ (s.inputs = .bufRead a :: rest → a < s.bufBytes → readByte s.mem a = none →
        step s = .next { u with faults := { s.faults with uninitRead := true } })
    ∧ (∀ b, s.inputs = .bufRead a :: rest → a < s.bufBytes → readByte s.mem a = some b →
        step s = .next { u with readData := some (b.setWidth 32) })
    ∧ (s.inputs = .bufWrite a v :: rest → a < s.bufBytes →
        ∃ t, step s = .next t ∧ t = { u with mem := t.mem }
          ∧ ∀ x, readByte t.mem x = if x = a then some v else readByte s.mem x)

/-- R61, R77: while BUSY, a host access at or past BUF_BYTES is BUS_ERROR, also inside the running ranges (log entry 10); an
access to an existing byte of the running operation's SRC or DST range is HOST_RACE and has no other effect than on the fault
record; any other access to an existing byte is ordinary, so every one where the command word is illegal, which has no ranges
(log entry 14). -/
def Obligations.HostRace : Prop :=
  ∀ (s u : State) (a : Nat) (v : Byte) (rest : List Input), s.phase = .busy → u = { s with inputs := rest } →
    (s.bufBytes ≤ a → s.inputs = .bufRead a :: rest ∨ s.inputs = .bufWrite a v :: rest →
        step s = .next { u with faults := { s.faults with busError := true } })
    ∧ (∀ i, decode s.cmd = .ok i → a < s.bufBytes → InOperationRanges i s a →
        s.inputs = .bufRead a :: rest ∨ s.inputs = .bufWrite a v :: rest →
        ∃ t, step s = .next t ∧ t.faults.hostRace = true ∧ t = { u with faults := t.faults })
    ∧ (a < s.bufBytes → (∀ i, decode s.cmd = .ok i → ¬ InOperationRanges i s a) →
        (s.inputs = .bufRead a :: rest → readByte s.mem a = none →
          step s = .next { u with faults := { s.faults with uninitRead := true } })
        ∧ (∀ b, s.inputs = .bufRead a :: rest → readByte s.mem a = some b →
          step s = .next { u with readData := some (b.setWidth 32) })
        ∧ (s.inputs = .bufWrite a v :: rest →
          ∃ t, step s = .next t ∧ t = { u with mem := t.mem }
            ∧ ∀ x, readByte t.mem x = if x = a then some v else readByte s.mem x))

/-! ### Resets -/

/-- R300 at power-on, for a buffer RAM of any size: what each register reads, IDLE, no irq, no byte initialised, no fault
recorded. -/
def Obligations.PowerOnState : Prop :=
  ∀ (n : Nat) (s : State), s = State.powerOn n →
    (∀ (r : RegName) (v : Word), (r, v) ∈ ([(.id, 0x4C554D07), (.ctrl, 0), (.status, 0), (.cmd, 0), (.srcAddr, 0),
        (.srcLen, 0), (.dstAddr, 0), (.dstCap, 0), (.arg0, 0), (.arg1, 0), (.arg2, 0), (.arg3, 0), (.res0, 0), (.res1, 0),
        (.res2, 0), (.res3, 0), (.cfgFec, 0x00000204), (.cfgChunk, 0x00000100), (.cfgComp, 0x00000001),
        (.cfgMargin, 0x0000C350), (.cfgBitdur, 0x00000064), (.cfgMaxlen, 0x0000FFFF), (.reserved, 0)]
        : List (RegName × Word)) → readReg s r = v)
      ∧ s.phase = .idle ∧ irq s = false ∧ (∀ a, readByte s.mem a = none) ∧ FaultFree s ∧ s.bufBytes = n
      ∧ ∃ k, 1 ≤ k ∧ k ≤ 2 ^ 28 ∧ State.reset = State.powerOn k

/-- R302, R304: the reset input, in every phase: every register as at power-on, every byte uninitialised; only the fault
record survives (and BUF_BYTES, the host's pending events and the model's own fields). -/
def Obligations.ResetInputState : Prop :=
  ∀ (s : State) (rest : List Input), s.inputs = .resetInput :: rest →
    step s = .next { State.powerOn s.bufBytes with
      faults := s.faults, inputs := rest, readData := s.readData, freeCount := s.freeCount }

/-- R303: a CTRL write with SOFT_RESET set, in every phase: every register as at power-on, the fault record kept; buffer RAM
unchanged outside the DST range of an operation in progress, and inside it each byte either unchanged or initialised. -/
def Obligations.SoftResetState : Prop :=
  ∀ (s : State) (v : Word) (rest : List Input), s.inputs = .regWrite 0x04 4 v :: rest → v.getLsbD 1 = true →
    ∃ t, step s = .next t
      ∧ t = { State.powerOn s.bufBytes with
          mem := t.mem, faults := s.faults, inputs := rest, readData := s.readData, freeCount := t.freeCount }
      ∧ (s.phase = .idle → t.mem = s.mem)
      ∧ ∀ a, readByte t.mem a = readByte s.mem a
          ∨ ((readByte t.mem a).isSome = true ∧ s.phase = .busy
              ∧ ∃ i, decode s.cmd = .ok i ∧ writesRam i = true ∧ s.dstAddr.toNat ≤ a
                  ∧ a < s.dstAddr.toNat + s.dstCap.toNat)

/-! ### Invariants and whole-machine rules -/

/-- Every step keeps the STATUS fields consistent (BUSY implies DONE = 0, R25; VALID never stands beside a code whose
`valid` is 0, R266), and a stuck core BUSY with its fault recorded. THE MODEL'S READING (log entry 22): BUSY implies VALID = 0
and RC = 0x00 by R90, against the last sentence of R272. -/
def Obligations.EveryStepKeepsStatusConsistent : Prop :=
  ∀ s t : State, StatusConsistent s → StuckConsistent s → step s = .next t → StatusConsistent t ∧ StuckConsistent t

/-- Every step keeps buffer RAM in canonical form and inside BUF_BYTES. -/
def Obligations.EveryStepKeepsMemoryConsistent : Prop :=
  ∀ s t : State, MemoryConsistent s → step s = .next t → MemoryConsistent t

/-- The invariants hold at power-on, of whatever size R9 allows, and so at reset. -/
def Obligations.InvariantsHoldAtReset : Prop :=
  (∀ n, 1 ≤ n → n ≤ 2 ^ 28 → ∀ s, s = State.powerOn n →
      StatusConsistent s ∧ MemoryConsistent s ∧ StuckConsistent s ∧ BufferSizeLegal s)
    ∧ StatusConsistent State.reset ∧ MemoryConsistent State.reset ∧ StuckConsistent State.reset

/-- R37: no step removes an element of the fault record; and no step changes BUF_BYTES. -/
def Obligations.FaultRecordOnlyGrows : Prop :=
  ∀ s t : State, step s = .next t →
    (∀ f, s.faults.has f = true → t.faults.has f = true) ∧ t.bufBytes = s.bufBytes

/-- After UNINIT_READ by an operation the core takes no further step (R97, R276): until a reset, the core stays BUSY and
stuck, and no register of an operation changes; with nothing pending, no agent has a step (the model's fault `coreStuck`,
log entry 4). -/
def Obligations.StuckCoreStaysUntilReset : Prop :=
  ∀ s : State, s.phase = .busy → s.stuck = true →
    (s.inputs = [] → step s = .fault .coreStuck)
      ∧ ∀ e rest, s.inputs = e :: rest → ¬ IsReset e →
          ∃ t, step s = .next t
            ∧ t = { s with
                inputs := rest, irqEn := t.irqEn, done := t.done, werr := t.werr, mem := t.mem, faults := t.faults
                readData := t.readData }

/-- The STATUS flags and the phase change only as R40 and R90 name it, or at a reset: BUSY is set by a CMD write and cleared
by a completion, DONE is set by a completion and cleared by a STATUS or CMD write, VALID and RC are written by a completion
(R40) and by an accepted command, WERR is set by a write while BUSY and cleared by a STATUS write. And RES0–RES3 are written
only by a completion (R34). THE MODEL'S READING (log entry 22): R40 names completion alone for VALID and RC; that an accepted
command writes them too is R90, against the last sentence of R272. -/
def Obligations.StatusAndResultsChangeOnlyAsNamed : Prop :=
  ∀ s t : State, step s = .next t → (∀ e rest, s.inputs = e :: rest → ¬ IsReset e) →
    (s.phase = .idle → t.phase = .busy → ∃ w rest, s.inputs = .regWrite 0x0C 4 w :: rest)
      ∧ (s.phase = .busy → t.phase = .idle → CoreHasTheTurn s ∧ t.done = true)
      ∧ (s.done = false → t.done = true → CoreHasTheTurn s ∧ s.phase = .busy ∧ t.phase = .idle)
      ∧ (s.done = true → t.done = false →
          ∃ w rest, s.inputs = .regWrite 0x08 4 w :: rest ∨ (s.inputs = .regWrite 0x0C 4 w :: rest ∧ t.phase = .busy))
      ∧ (t.valid ≠ s.valid ∨ t.rc ≠ s.rc →
          (CoreHasTheTurn s ∧ t.done = true) ∨ ∃ w rest, s.inputs = .regWrite 0x0C 4 w :: rest ∧ t.phase = .busy)
      ∧ (s.werr = false → t.werr = true → s.phase = .busy ∧ ∃ off w rest, s.inputs = .regWrite off 4 w :: rest)
      ∧ (s.werr = true → t.werr = false → ∃ w rest, s.inputs = .regWrite 0x08 4 w :: rest)
      ∧ (t.res0 ≠ s.res0 ∨ t.res1 ≠ s.res1 ∨ t.res2 ≠ s.res2 ∨ t.res3 ≠ s.res3 →
          CoreHasTheTurn s ∧ s.phase = .busy ∧ t.phase = .idle ∧ t.done = true)
end

