-- ==== Sys2Proof/Laws/Memory.lean ====
section
/-! SUPPORT. Laws of buffer RAM: a read after a write, the canonical form that every operation keeps, and what MemBytes and
PutBytes do. -/

namespace Sys2Proof.Machine

/-! ### One byte -/

@[simp] theorem readByte_nil (x : Nat) : readByte [] x = none := rfl

/-- A read after a write: the byte written at its own address, and what was there before at any other. -/
theorem readByte_writeByte (m : Memory) (x : Nat) (v : Byte) (y : Nat) :
    readByte (writeByte m x v) y = if x = y then some v else readByte m y := by
  induction m with
  | nil => simp [writeByte, readByte]
  | cons c rest ih =>
    obtain ⟨a, w⟩ := c
    simp only [writeByte]
    split
    · next h => simp only [readByte, ih]; split <;> split <;> first | rfl | omega
    · split
      · next h => subst h; simp only [readByte]; split <;> rfl
      · simp only [readByte]

@[simp] theorem readByte_writeByte_same (m : Memory) (x : Nat) (v : Byte) : readByte (writeByte m x v) x = some v := by
  simp [readByte_writeByte]

theorem readByte_writeByte_other (m : Memory) {x y : Nat} (v : Byte) (h : x ≠ y) :
    readByte (writeByte m x v) y = readByte m y := by
  simp [readByte_writeByte, h]

/-! ### The canonical form -/

/-- The canonical form of a list with a first cell: the rest is canonical and lies above it. -/
theorem wf_cons_iff (a : Nat) (w : Byte) (rest : Memory) :
    Memory.wf ((a, w) :: rest) = true ↔ Memory.wf rest = true ∧ ∀ c ∈ rest, a < c.1 := by
  induction rest generalizing a w with
  | nil => simp [Memory.wf]
  | cons c rest ih =>
    obtain ⟨b, v⟩ := c
    simp only [Memory.wf, Bool.and_eq_true, decide_eq_true_eq, List.mem_cons, forall_eq_or_imp]
    constructor
    · rintro ⟨hab, h⟩
      exact ⟨h, hab, fun c hc => lt_trans hab (((ih b v).1 h).2 c hc)⟩
    · rintro ⟨h, hab, -⟩
      exact ⟨hab, h⟩

theorem mem_writeByte {m : Memory} {x : Nat} {v : Byte} {c : Host.Cell} (h : c ∈ writeByte m x v) :
    c = (x, v) ∨ c ∈ m := by
  induction m with
  | nil => simpa [writeByte] using h
  | cons d rest ih =>
    obtain ⟨a, w⟩ := d
    simp only [writeByte] at h
    split at h
    · rcases List.mem_cons.1 h with h | h
      · exact .inr (by simp [h])
      · exact (ih h).imp id (List.mem_cons_of_mem _)
    · split at h
      · next hax => subst hax; rcases List.mem_cons.1 h with h | h
                    · exact .inl h
                    · exact .inr (List.mem_cons_of_mem _ h)
      · rcases List.mem_cons.1 h with h | h
        · exact .inl h
        · exact .inr h

/-- A write keeps the canonical form. -/
theorem writeByte_wf (m : Memory) (x : Nat) (v : Byte) (h : Memory.wf m = true) : Memory.wf (writeByte m x v) = true := by
  induction m with
  | nil => rfl
  | cons d rest ih =>
    obtain ⟨a, w⟩ := d
    obtain ⟨hr, ha⟩ := (wf_cons_iff a w rest).1 h
    simp only [writeByte]
    split
    · next hax =>
      refine (wf_cons_iff _ _ _).2 ⟨ih hr, fun c hc => ?_⟩
      rcases mem_writeByte hc with rfl | hc
      · exact hax
      · exact ha c hc
    · split
      · next hax => exact (wf_cons_iff _ _ _).2 ⟨hr, ha⟩
      · next h1 h2 =>
        refine (wf_cons_iff _ _ _).2 ⟨h, fun c hc => ?_⟩
        rcases List.mem_cons.1 hc with rfl | hc
        · show x < a
          omega
        · have := ha c hc
          omega

/-- An address below every listed one is not initialised. -/
theorem readByte_of_lt {m : Memory} {x : Nat} (h : ∀ c ∈ m, x < c.1) : readByte m x = none := by
  induction m with
  | nil => rfl
  | cons d rest ih =>
    obtain ⟨a, w⟩ := d
    have : a ≠ x := by have := h (a, w) (by simp); simp at this; omega
    simp only [readByte, this, if_false]
    exact ih fun c hc => h c (List.mem_cons_of_mem _ hc)

/-- Equal memories are equal data: two canonical memories that read alike everywhere are the same list. -/
theorem wf_ext {m m' : Memory} (h : Memory.wf m = true) (h' : Memory.wf m' = true)
    (heq : ∀ x, readByte m x = readByte m' x) : m = m' := by
  induction m generalizing m' with
  | nil =>
    cases m' with
    | nil => rfl
    | cons d rest => obtain ⟨a, w⟩ := d; simpa [readByte] using heq a
  | cons d rest ih =>
    obtain ⟨a, w⟩ := d
    obtain ⟨hr, ha⟩ := (wf_cons_iff a w rest).1 h
    cases m' with
    | nil => simpa [readByte] using heq a
    | cons d' rest' =>
      obtain ⟨b, v⟩ := d'
      obtain ⟨hr', hb⟩ := (wf_cons_iff b v rest').1 h'
      have hab : a = b := by
        rcases Nat.lt_trichotomy a b with hlt | heq' | hgt
        · have h1 := heq a
          have h2 : readByte ((b, v) :: rest') a = none :=
            readByte_of_lt (by intro c hc; rcases List.mem_cons.1 hc with rfl | hc
                               · exact hlt
                               · exact lt_trans hlt (hb c hc))
          simp [readByte] at h1 h2
          simp [h2] at h1
        · exact heq'
        · have h1 := heq b
          have h2 : readByte ((a, w) :: rest) b = none :=
            readByte_of_lt (by intro c hc; rcases List.mem_cons.1 hc with rfl | hc
                               · exact hgt
                               · exact lt_trans hgt (ha c hc))
          simp [readByte] at h1 h2
          simp [h2] at h1
      subst hab
      have hwv : w = v := by simpa [readByte] using heq a
      subst hwv
      congr 1
      refine ih hr hr' fun x => ?_
      by_cases hx : a = x
      · subst hx; rw [readByte_of_lt ha, readByte_of_lt hb]
      · simpa [readByte, hx] using heq x

/-! ### Byte strings -/

/-- PutBytes, read byte by byte: the string stands from its address on, every other byte reads as before. -/
theorem readByte_putBytes (m : Memory) (addr : Nat) (bs : List Byte) (a : Nat) :
    readByte (putBytes m addr bs) a =
      if addr ≤ a ∧ a < addr + bs.length then bs[a - addr]? else readByte m a := by
  induction bs generalizing m addr with
  | nil => simp [putBytes]
  | cons b bs ih =>
    simp only [putBytes, ih, readByte_writeByte, List.length_cons]
    by_cases h : addr = a
    · subst h; simp
    · by_cases h2 : addr + 1 ≤ a ∧ a < addr + 1 + bs.length
      · have h3 : addr ≤ a ∧ a < addr + (bs.length + 1) := by omega
        have h4 : a - addr = (a - (addr + 1)) + 1 := by omega
        rw [if_pos h2, if_pos h3, h4, List.getElem?_cons_succ]
      · have h3 : ¬ (addr ≤ a ∧ a < addr + (bs.length + 1)) := by omega
        rw [if_neg h2, if_neg h3, if_neg h]

theorem putBytes_wf (m : Memory) (addr : Nat) (bs : List Byte) (h : Memory.wf m = true) :
    Memory.wf (putBytes m addr bs) = true := by
  induction bs generalizing m addr with
  | nil => exact h
  | cons b bs ih => exact ih _ _ (writeByte_wf m addr b h)

theorem memWrite_wf (m : Memory) (addr n v : Nat) (h : Memory.wf m = true) : Memory.wf (memWrite m addr n v) = true :=
  putBytes_wf m addr _ h

theorem bitsOut_wf (m : Memory) (base : Nat) (b : List Bool) (h : Memory.wf m = true) : Memory.wf (bitsOut m base b) = true :=
  putBytes_wf m base _ h

theorem bitWrite_wf (fresh : Nat) (m : Memory) (base k : Nat) (b : Bool) (h : Memory.wf m = true) :
    Memory.wf (bitWrite fresh m base k b) = true :=
  writeByte_wf m _ _ h

/-- BitWrite writes one byte: the one that holds the stream bit, with that bit set (R67). -/
theorem readByte_bitWrite (fresh : Nat) (m : Memory) (base k : Nat) (b : Bool) (a : Nat) :
    readByte (bitWrite fresh m base k b) a =
      if base + k / 8 = a then
        some (setBit ((readByte m (base + k / 8)).getD (Config.unwrittenByte fresh (base + k / 8))) (7 - k % 8) b)
      else readByte m a :=
  readByte_writeByte m _ _ a

/-- The bits of a byte after setting one of them. -/
theorem setBit_getLsbD (x : Byte) (i j : Nat) (b : Bool) (hi : i < 8) :
    (setBit x i b).getLsbD j = if j = i then b else x.getLsbD j := by
  unfold setBit
  by_cases hj : j < 8
  · cases b <;> by_cases h : j = i <;> simp [h, hi, hj]
  · rw [BitVec.getLsbD_of_ge _ _ (by omega), BitVec.getLsbD_of_ge _ _ (by omega), if_neg (by omega)]

/-- The cells of a memory after PutBytes: those that were there, and those of the string's addresses. -/
theorem mem_putBytes {m : Memory} {addr : Nat} {bs : List Byte} {c : Host.Cell} (h : c ∈ putBytes m addr bs) :
    (addr ≤ c.1 ∧ c.1 < addr + bs.length) ∨ c ∈ m := by
  induction bs generalizing m addr with
  | nil => exact .inr h
  | cons b bs ih =>
    rcases ih h with h | h
    · exact .inl (by simp only [List.length_cons]; omega)
    · rcases mem_writeByte h with rfl | h
      · exact .inl (by simp)
      · exact .inr h

/-- MemBytes answers a string exactly when each of its bytes is initialised and reads as given. -/
theorem memBytes_eq_some_iff (m : Memory) (addr n : Nat) (d : List Byte) :
    memBytes m addr n = some d ↔ d.length = n ∧ ∀ k < n, readByte m (addr + k) = d[k]? := by
  induction n generalizing addr d with
  | zero => cases d <;> simp [memBytes]
  | succ n ih =>
    simp only [memBytes]
    cases h : readByte m addr with
    | none =>
      simp only [reduceCtorEq, false_iff, not_and]
      intro hd hk
      have := hk 0 (by omega)
      simp [h] at this
      cases d <;> simp_all
    | some b =>
      simp only [Option.map_eq_some_iff, ih]
      constructor
      · rintro ⟨d', ⟨hl, hk⟩, rfl⟩
        refine ⟨by simp [hl], fun k hkn => ?_⟩
        cases k with
        | zero => simp [h]
        | succ k => simpa [Nat.add_assoc, Nat.add_comm 1 k] using hk k (by omega)
      · rintro ⟨hl, hk⟩
        cases d with
        | nil => simp at hl
        | cons x d =>
          have h0 := hk 0 (by omega)
          simp [h] at h0
          subst h0
          refine ⟨d, ⟨by simpa using hl, fun k hkn => ?_⟩, rfl⟩
          simpa [Nat.add_assoc, Nat.add_comm 1 k] using hk (k + 1) (by omega)

theorem memBytes_length {m : Memory} {addr n : Nat} {d : List Byte} (h : memBytes m addr n = some d) : d.length = n :=
  ((memBytes_eq_some_iff m addr n d).1 h).1

/-- MemBytes depends only on the bytes of its range. -/
theorem memBytes_congr {m m' : Memory} {addr n : Nat} (h : ∀ k < n, readByte m (addr + k) = readByte m' (addr + k)) :
    memBytes m addr n = memBytes m' addr n := by
  induction n generalizing addr with
  | zero => rfl
  | succ n ih =>
    have h0 := h 0 (by omega)
    simp only [Nat.add_zero] at h0
    simp only [memBytes, h0]
    rw [ih fun k hk => by simpa [Nat.add_assoc, Nat.add_comm 1 k] using h (k + 1) (by omega)]

/-- What PutBytes wrote, MemBytes reads back. -/
theorem memBytes_putBytes_same (m : Memory) (addr : Nat) (bs : List Byte) :
    memBytes (putBytes m addr bs) addr bs.length = some bs := by
  rw [memBytes_eq_some_iff]
  refine ⟨rfl, fun k hk => ?_⟩
  rw [readByte_putBytes, if_pos (by omega)]
  congr 1
  omega

/-! ### Lengths of bit strings and their bytes -/

@[simp] theorem bitsMSB_length (w v : Nat) : (bitsMSB w v).length = w := by
  induction w with
  | zero => rfl
  | succ w ih => simp [bitsMSB, ih]

@[simp] theorem byteBits_length (b : Byte) : (byteBits b).length = 8 := bitsMSB_length 8 _

@[simp] theorem bytesBits_nil : bytesBits [] = [] := rfl

@[simp] theorem bytesBits_cons (b : Byte) (bs : List Byte) : bytesBits (b :: bs) = byteBits b ++ bytesBits bs := rfl

@[simp] theorem bytesBits_append (xs ys : List Byte) : bytesBits (xs ++ ys) = bytesBits xs ++ bytesBits ys := by
  simp [bytesBits]

@[simp] theorem bytesBits_length (bs : List Byte) : (bytesBits bs).length = 8 * bs.length := by
  induction bs with
  | nil => rfl
  | cons b bs ih => simp [ih]; omega

@[simp] theorem packBytes_length (n : Nat) (b : List Bool) : (packBytes n b).length = n := by
  induction n generalizing b with
  | zero => rfl
  | succ n ih => simp [packBytes, ih]

/-- A bit string of L bits is stored in ceil(L/8) bytes (R67, R69). -/
@[simp] theorem packBits_length (b : List Bool) : (packBits b).length = bytesOfBits b.length :=
  packBytes_length _ b

@[simp] theorem beBytes_length (n v : Nat) : (beBytes n v).length = n := by
  induction n with
  | zero => rfl
  | succ n ih => simp [beBytes, ih]

end Sys2Proof.Machine
end

