-- ==== Sys2Proof/Laws/State.lean ====
section
/-! SUPPORT. One lemma per field per named state update, each true by rfl, so that no proof unfolds a record update. -/

namespace Sys2Proof.Machine

/-! ### complete (R97) -/

@[simp] theorem complete_bufBytes (s : State) (c : Completion) : (complete s c).bufBytes = s.bufBytes := rfl
@[simp] theorem complete_irqEn (s : State) (c : Completion) : (complete s c).irqEn = s.irqEn := rfl
@[simp] theorem complete_phase (s : State) (c : Completion) : (complete s c).phase = .idle := rfl
@[simp] theorem complete_done (s : State) (c : Completion) : (complete s c).done = true := rfl
@[simp] theorem complete_valid (s : State) (c : Completion) : (complete s c).valid = c.rc.valid := rfl
@[simp] theorem complete_werr (s : State) (c : Completion) : (complete s c).werr = s.werr := rfl
@[simp] theorem complete_rc (s : State) (c : Completion) : (complete s c).rc = c.rc := rfl
@[simp] theorem complete_cmd (s : State) (c : Completion) : (complete s c).cmd = s.cmd := rfl
@[simp] theorem complete_srcAddr (s : State) (c : Completion) : (complete s c).srcAddr = s.srcAddr := rfl
@[simp] theorem complete_srcLen (s : State) (c : Completion) : (complete s c).srcLen = s.srcLen := rfl
@[simp] theorem complete_dstAddr (s : State) (c : Completion) : (complete s c).dstAddr = s.dstAddr := rfl
@[simp] theorem complete_dstCap (s : State) (c : Completion) : (complete s c).dstCap = s.dstCap := rfl
@[simp] theorem complete_arg0 (s : State) (c : Completion) : (complete s c).arg0 = s.arg0 := rfl
@[simp] theorem complete_arg1 (s : State) (c : Completion) : (complete s c).arg1 = s.arg1 := rfl
@[simp] theorem complete_arg2 (s : State) (c : Completion) : (complete s c).arg2 = s.arg2 := rfl
@[simp] theorem complete_arg3 (s : State) (c : Completion) : (complete s c).arg3 = s.arg3 := rfl
@[simp] theorem complete_res0 (s : State) (c : Completion) : (complete s c).res0 = c.res0 := rfl
@[simp] theorem complete_res1 (s : State) (c : Completion) : (complete s c).res1 = c.res1 := rfl
@[simp] theorem complete_res2 (s : State) (c : Completion) : (complete s c).res2 = c.res2 := rfl
@[simp] theorem complete_res3 (s : State) (c : Completion) : (complete s c).res3 = c.res3 := rfl
@[simp] theorem complete_dataShards (s : State) (c : Completion) : (complete s c).dataShards = s.dataShards := rfl
@[simp] theorem complete_parityShards (s : State) (c : Completion) : (complete s c).parityShards = s.parityShards := rfl
@[simp] theorem complete_cfgChunk (s : State) (c : Completion) : (complete s c).cfgChunk = s.cfgChunk := rfl
@[simp] theorem complete_compEn (s : State) (c : Completion) : (complete s c).compEn = s.compEn := rfl
@[simp] theorem complete_cfgMargin (s : State) (c : Completion) : (complete s c).cfgMargin = s.cfgMargin := rfl
@[simp] theorem complete_cfgBitdur (s : State) (c : Completion) : (complete s c).cfgBitdur = s.cfgBitdur := rfl
@[simp] theorem complete_maxLen (s : State) (c : Completion) : (complete s c).maxLen = s.maxLen := rfl
@[simp] theorem complete_mem (s : State) (c : Completion) : (complete s c).mem = putBytes s.mem s.dstAddr.toNat c.out := rfl
@[simp] theorem complete_faults (s : State) (c : Completion) : (complete s c).faults = s.faults := rfl
@[simp] theorem complete_stuck (s : State) (c : Completion) : (complete s c).stuck = s.stuck := rfl
@[simp] theorem complete_inputs (s : State) (c : Completion) : (complete s c).inputs = s.inputs := rfl
@[simp] theorem complete_readData (s : State) (c : Completion) : (complete s c).readData = s.readData := rfl
@[simp] theorem complete_freeCount (s : State) (c : Completion) : (complete s c).freeCount = s.freeCount := rfl

/-! ### recordFault (R276) -/

@[simp] theorem recordFault_bufBytes (s : State) (f : FaultName) : (recordFault s f).bufBytes = s.bufBytes := rfl
@[simp] theorem recordFault_irqEn (s : State) (f : FaultName) : (recordFault s f).irqEn = s.irqEn := rfl
@[simp] theorem recordFault_phase (s : State) (f : FaultName) : (recordFault s f).phase = s.phase := rfl
@[simp] theorem recordFault_done (s : State) (f : FaultName) : (recordFault s f).done = s.done := rfl
@[simp] theorem recordFault_valid (s : State) (f : FaultName) : (recordFault s f).valid = s.valid := rfl
@[simp] theorem recordFault_werr (s : State) (f : FaultName) : (recordFault s f).werr = s.werr := rfl
@[simp] theorem recordFault_rc (s : State) (f : FaultName) : (recordFault s f).rc = s.rc := rfl
@[simp] theorem recordFault_cmd (s : State) (f : FaultName) : (recordFault s f).cmd = s.cmd := rfl
@[simp] theorem recordFault_srcAddr (s : State) (f : FaultName) : (recordFault s f).srcAddr = s.srcAddr := rfl
@[simp] theorem recordFault_srcLen (s : State) (f : FaultName) : (recordFault s f).srcLen = s.srcLen := rfl
@[simp] theorem recordFault_dstAddr (s : State) (f : FaultName) : (recordFault s f).dstAddr = s.dstAddr := rfl
@[simp] theorem recordFault_dstCap (s : State) (f : FaultName) : (recordFault s f).dstCap = s.dstCap := rfl
@[simp] theorem recordFault_arg0 (s : State) (f : FaultName) : (recordFault s f).arg0 = s.arg0 := rfl
@[simp] theorem recordFault_arg1 (s : State) (f : FaultName) : (recordFault s f).arg1 = s.arg1 := rfl
@[simp] theorem recordFault_arg2 (s : State) (f : FaultName) : (recordFault s f).arg2 = s.arg2 := rfl
@[simp] theorem recordFault_arg3 (s : State) (f : FaultName) : (recordFault s f).arg3 = s.arg3 := rfl
@[simp] theorem recordFault_res0 (s : State) (f : FaultName) : (recordFault s f).res0 = s.res0 := rfl
@[simp] theorem recordFault_res1 (s : State) (f : FaultName) : (recordFault s f).res1 = s.res1 := rfl
@[simp] theorem recordFault_res2 (s : State) (f : FaultName) : (recordFault s f).res2 = s.res2 := rfl
@[simp] theorem recordFault_res3 (s : State) (f : FaultName) : (recordFault s f).res3 = s.res3 := rfl
@[simp] theorem recordFault_dataShards (s : State) (f : FaultName) : (recordFault s f).dataShards = s.dataShards := rfl
@[simp] theorem recordFault_parityShards (s : State) (f : FaultName) : (recordFault s f).parityShards = s.parityShards := rfl
@[simp] theorem recordFault_cfgChunk (s : State) (f : FaultName) : (recordFault s f).cfgChunk = s.cfgChunk := rfl
@[simp] theorem recordFault_compEn (s : State) (f : FaultName) : (recordFault s f).compEn = s.compEn := rfl
@[simp] theorem recordFault_cfgMargin (s : State) (f : FaultName) : (recordFault s f).cfgMargin = s.cfgMargin := rfl
@[simp] theorem recordFault_cfgBitdur (s : State) (f : FaultName) : (recordFault s f).cfgBitdur = s.cfgBitdur := rfl
@[simp] theorem recordFault_maxLen (s : State) (f : FaultName) : (recordFault s f).maxLen = s.maxLen := rfl
@[simp] theorem recordFault_mem (s : State) (f : FaultName) : (recordFault s f).mem = s.mem := rfl
@[simp] theorem recordFault_faults (s : State) (f : FaultName) : (recordFault s f).faults = s.faults.add f := rfl
@[simp] theorem recordFault_stuck (s : State) (f : FaultName) : (recordFault s f).stuck = s.stuck := rfl
@[simp] theorem recordFault_inputs (s : State) (f : FaultName) : (recordFault s f).inputs = s.inputs := rfl
@[simp] theorem recordFault_readData (s : State) (f : FaultName) : (recordFault s f).readData = s.readData := rfl
@[simp] theorem recordFault_freeCount (s : State) (f : FaultName) : (recordFault s f).freeCount = s.freeCount := rfl

/-! ### halt (R97) -/

@[simp] theorem halt_bufBytes (s : State) (f : FaultName) : (halt s f).bufBytes = s.bufBytes := rfl
@[simp] theorem halt_irqEn (s : State) (f : FaultName) : (halt s f).irqEn = s.irqEn := rfl
@[simp] theorem halt_phase (s : State) (f : FaultName) : (halt s f).phase = s.phase := rfl
@[simp] theorem halt_done (s : State) (f : FaultName) : (halt s f).done = s.done := rfl
@[simp] theorem halt_valid (s : State) (f : FaultName) : (halt s f).valid = s.valid := rfl
@[simp] theorem halt_werr (s : State) (f : FaultName) : (halt s f).werr = s.werr := rfl
@[simp] theorem halt_rc (s : State) (f : FaultName) : (halt s f).rc = s.rc := rfl
@[simp] theorem halt_cmd (s : State) (f : FaultName) : (halt s f).cmd = s.cmd := rfl
@[simp] theorem halt_srcAddr (s : State) (f : FaultName) : (halt s f).srcAddr = s.srcAddr := rfl
@[simp] theorem halt_srcLen (s : State) (f : FaultName) : (halt s f).srcLen = s.srcLen := rfl
@[simp] theorem halt_dstAddr (s : State) (f : FaultName) : (halt s f).dstAddr = s.dstAddr := rfl
@[simp] theorem halt_dstCap (s : State) (f : FaultName) : (halt s f).dstCap = s.dstCap := rfl
@[simp] theorem halt_arg0 (s : State) (f : FaultName) : (halt s f).arg0 = s.arg0 := rfl
@[simp] theorem halt_arg1 (s : State) (f : FaultName) : (halt s f).arg1 = s.arg1 := rfl
@[simp] theorem halt_arg2 (s : State) (f : FaultName) : (halt s f).arg2 = s.arg2 := rfl
@[simp] theorem halt_arg3 (s : State) (f : FaultName) : (halt s f).arg3 = s.arg3 := rfl
@[simp] theorem halt_res0 (s : State) (f : FaultName) : (halt s f).res0 = s.res0 := rfl
@[simp] theorem halt_res1 (s : State) (f : FaultName) : (halt s f).res1 = s.res1 := rfl
@[simp] theorem halt_res2 (s : State) (f : FaultName) : (halt s f).res2 = s.res2 := rfl
@[simp] theorem halt_res3 (s : State) (f : FaultName) : (halt s f).res3 = s.res3 := rfl
@[simp] theorem halt_dataShards (s : State) (f : FaultName) : (halt s f).dataShards = s.dataShards := rfl
@[simp] theorem halt_parityShards (s : State) (f : FaultName) : (halt s f).parityShards = s.parityShards := rfl
@[simp] theorem halt_cfgChunk (s : State) (f : FaultName) : (halt s f).cfgChunk = s.cfgChunk := rfl
@[simp] theorem halt_compEn (s : State) (f : FaultName) : (halt s f).compEn = s.compEn := rfl
@[simp] theorem halt_cfgMargin (s : State) (f : FaultName) : (halt s f).cfgMargin = s.cfgMargin := rfl
@[simp] theorem halt_cfgBitdur (s : State) (f : FaultName) : (halt s f).cfgBitdur = s.cfgBitdur := rfl
@[simp] theorem halt_maxLen (s : State) (f : FaultName) : (halt s f).maxLen = s.maxLen := rfl
@[simp] theorem halt_mem (s : State) (f : FaultName) : (halt s f).mem = s.mem := rfl
@[simp] theorem halt_faults (s : State) (f : FaultName) : (halt s f).faults = s.faults.add f := rfl
@[simp] theorem halt_stuck (s : State) (f : FaultName) : (halt s f).stuck = true := rfl
@[simp] theorem halt_inputs (s : State) (f : FaultName) : (halt s f).inputs = s.inputs := rfl
@[simp] theorem halt_readData (s : State) (f : FaultName) : (halt s f).readData = s.readData := rfl
@[simp] theorem halt_freeCount (s : State) (f : FaultName) : (halt s f).freeCount = s.freeCount := rfl

/-! ### acceptCommand (R90) -/

@[simp] theorem acceptCommand_bufBytes (s : State) (w : Word) : (acceptCommand s w).bufBytes = s.bufBytes := rfl
@[simp] theorem acceptCommand_irqEn (s : State) (w : Word) : (acceptCommand s w).irqEn = s.irqEn := rfl
@[simp] theorem acceptCommand_phase (s : State) (w : Word) : (acceptCommand s w).phase = .busy := rfl
@[simp] theorem acceptCommand_done (s : State) (w : Word) : (acceptCommand s w).done = false := rfl
@[simp] theorem acceptCommand_valid (s : State) (w : Word) : (acceptCommand s w).valid = false := rfl
@[simp] theorem acceptCommand_werr (s : State) (w : Word) : (acceptCommand s w).werr = s.werr := rfl
@[simp] theorem acceptCommand_rc (s : State) (w : Word) : (acceptCommand s w).rc = .success := rfl
@[simp] theorem acceptCommand_cmd (s : State) (w : Word) : (acceptCommand s w).cmd = w := rfl
@[simp] theorem acceptCommand_srcAddr (s : State) (w : Word) : (acceptCommand s w).srcAddr = s.srcAddr := rfl
@[simp] theorem acceptCommand_srcLen (s : State) (w : Word) : (acceptCommand s w).srcLen = s.srcLen := rfl
@[simp] theorem acceptCommand_dstAddr (s : State) (w : Word) : (acceptCommand s w).dstAddr = s.dstAddr := rfl
@[simp] theorem acceptCommand_dstCap (s : State) (w : Word) : (acceptCommand s w).dstCap = s.dstCap := rfl
@[simp] theorem acceptCommand_arg0 (s : State) (w : Word) : (acceptCommand s w).arg0 = s.arg0 := rfl
@[simp] theorem acceptCommand_arg1 (s : State) (w : Word) : (acceptCommand s w).arg1 = s.arg1 := rfl
@[simp] theorem acceptCommand_arg2 (s : State) (w : Word) : (acceptCommand s w).arg2 = s.arg2 := rfl
@[simp] theorem acceptCommand_arg3 (s : State) (w : Word) : (acceptCommand s w).arg3 = s.arg3 := rfl
@[simp] theorem acceptCommand_res0 (s : State) (w : Word) : (acceptCommand s w).res0 = s.res0 := rfl
@[simp] theorem acceptCommand_res1 (s : State) (w : Word) : (acceptCommand s w).res1 = s.res1 := rfl
@[simp] theorem acceptCommand_res2 (s : State) (w : Word) : (acceptCommand s w).res2 = s.res2 := rfl
@[simp] theorem acceptCommand_res3 (s : State) (w : Word) : (acceptCommand s w).res3 = s.res3 := rfl
@[simp] theorem acceptCommand_dataShards (s : State) (w : Word) : (acceptCommand s w).dataShards = s.dataShards := rfl
@[simp] theorem acceptCommand_parityShards (s : State) (w : Word) : (acceptCommand s w).parityShards = s.parityShards := rfl
@[simp] theorem acceptCommand_cfgChunk (s : State) (w : Word) : (acceptCommand s w).cfgChunk = s.cfgChunk := rfl
@[simp] theorem acceptCommand_compEn (s : State) (w : Word) : (acceptCommand s w).compEn = s.compEn := rfl
@[simp] theorem acceptCommand_cfgMargin (s : State) (w : Word) : (acceptCommand s w).cfgMargin = s.cfgMargin := rfl
@[simp] theorem acceptCommand_cfgBitdur (s : State) (w : Word) : (acceptCommand s w).cfgBitdur = s.cfgBitdur := rfl
@[simp] theorem acceptCommand_maxLen (s : State) (w : Word) : (acceptCommand s w).maxLen = s.maxLen := rfl
@[simp] theorem acceptCommand_mem (s : State) (w : Word) : (acceptCommand s w).mem = s.mem := rfl
@[simp] theorem acceptCommand_faults (s : State) (w : Word) : (acceptCommand s w).faults = s.faults := rfl
@[simp] theorem acceptCommand_stuck (s : State) (w : Word) : (acceptCommand s w).stuck = false := rfl
@[simp] theorem acceptCommand_inputs (s : State) (w : Word) : (acceptCommand s w).inputs = s.inputs := rfl
@[simp] theorem acceptCommand_readData (s : State) (w : Word) : (acceptCommand s w).readData = s.readData := rfl
@[simp] theorem acceptCommand_freeCount (s : State) (w : Word) : (acceptCommand s w).freeCount = s.freeCount := rfl

/-! ### dropWrite (R42) -/

@[simp] theorem dropWrite_bufBytes (s : State) : (dropWrite s).bufBytes = s.bufBytes := rfl
@[simp] theorem dropWrite_irqEn (s : State) : (dropWrite s).irqEn = s.irqEn := rfl
@[simp] theorem dropWrite_phase (s : State) : (dropWrite s).phase = s.phase := rfl
@[simp] theorem dropWrite_done (s : State) : (dropWrite s).done = s.done := rfl
@[simp] theorem dropWrite_valid (s : State) : (dropWrite s).valid = s.valid := rfl
@[simp] theorem dropWrite_werr (s : State) : (dropWrite s).werr = true := rfl
@[simp] theorem dropWrite_rc (s : State) : (dropWrite s).rc = s.rc := rfl
@[simp] theorem dropWrite_cmd (s : State) : (dropWrite s).cmd = s.cmd := rfl
@[simp] theorem dropWrite_srcAddr (s : State) : (dropWrite s).srcAddr = s.srcAddr := rfl
@[simp] theorem dropWrite_srcLen (s : State) : (dropWrite s).srcLen = s.srcLen := rfl
@[simp] theorem dropWrite_dstAddr (s : State) : (dropWrite s).dstAddr = s.dstAddr := rfl
@[simp] theorem dropWrite_dstCap (s : State) : (dropWrite s).dstCap = s.dstCap := rfl
@[simp] theorem dropWrite_arg0 (s : State) : (dropWrite s).arg0 = s.arg0 := rfl
@[simp] theorem dropWrite_arg1 (s : State) : (dropWrite s).arg1 = s.arg1 := rfl
@[simp] theorem dropWrite_arg2 (s : State) : (dropWrite s).arg2 = s.arg2 := rfl
@[simp] theorem dropWrite_arg3 (s : State) : (dropWrite s).arg3 = s.arg3 := rfl
@[simp] theorem dropWrite_res0 (s : State) : (dropWrite s).res0 = s.res0 := rfl
@[simp] theorem dropWrite_res1 (s : State) : (dropWrite s).res1 = s.res1 := rfl
@[simp] theorem dropWrite_res2 (s : State) : (dropWrite s).res2 = s.res2 := rfl
@[simp] theorem dropWrite_res3 (s : State) : (dropWrite s).res3 = s.res3 := rfl
@[simp] theorem dropWrite_dataShards (s : State) : (dropWrite s).dataShards = s.dataShards := rfl
@[simp] theorem dropWrite_parityShards (s : State) : (dropWrite s).parityShards = s.parityShards := rfl
@[simp] theorem dropWrite_cfgChunk (s : State) : (dropWrite s).cfgChunk = s.cfgChunk := rfl
@[simp] theorem dropWrite_compEn (s : State) : (dropWrite s).compEn = s.compEn := rfl
@[simp] theorem dropWrite_cfgMargin (s : State) : (dropWrite s).cfgMargin = s.cfgMargin := rfl
@[simp] theorem dropWrite_cfgBitdur (s : State) : (dropWrite s).cfgBitdur = s.cfgBitdur := rfl
@[simp] theorem dropWrite_maxLen (s : State) : (dropWrite s).maxLen = s.maxLen := rfl
@[simp] theorem dropWrite_mem (s : State) : (dropWrite s).mem = s.mem := rfl
@[simp] theorem dropWrite_faults (s : State) : (dropWrite s).faults = s.faults := rfl
@[simp] theorem dropWrite_stuck (s : State) : (dropWrite s).stuck = s.stuck := rfl
@[simp] theorem dropWrite_inputs (s : State) : (dropWrite s).inputs = s.inputs := rfl
@[simp] theorem dropWrite_readData (s : State) : (dropWrite s).readData = s.readData := rfl
@[simp] theorem dropWrite_freeCount (s : State) : (dropWrite s).freeCount = s.freeCount := rfl

/-! ### resetRegisters (R303) -/

@[simp] theorem resetRegisters_bufBytes (s : State) : (resetRegisters s).bufBytes = s.bufBytes := rfl
@[simp] theorem resetRegisters_irqEn (s : State) : (resetRegisters s).irqEn = (State.powerOn s.bufBytes).irqEn := rfl
@[simp] theorem resetRegisters_phase (s : State) : (resetRegisters s).phase = (State.powerOn s.bufBytes).phase := rfl
@[simp] theorem resetRegisters_done (s : State) : (resetRegisters s).done = (State.powerOn s.bufBytes).done := rfl
@[simp] theorem resetRegisters_valid (s : State) : (resetRegisters s).valid = (State.powerOn s.bufBytes).valid := rfl
@[simp] theorem resetRegisters_werr (s : State) : (resetRegisters s).werr = (State.powerOn s.bufBytes).werr := rfl
@[simp] theorem resetRegisters_rc (s : State) : (resetRegisters s).rc = (State.powerOn s.bufBytes).rc := rfl
@[simp] theorem resetRegisters_cmd (s : State) : (resetRegisters s).cmd = (State.powerOn s.bufBytes).cmd := rfl
@[simp] theorem resetRegisters_srcAddr (s : State) : (resetRegisters s).srcAddr = (State.powerOn s.bufBytes).srcAddr := rfl
@[simp] theorem resetRegisters_srcLen (s : State) : (resetRegisters s).srcLen = (State.powerOn s.bufBytes).srcLen := rfl
@[simp] theorem resetRegisters_dstAddr (s : State) : (resetRegisters s).dstAddr = (State.powerOn s.bufBytes).dstAddr := rfl
@[simp] theorem resetRegisters_dstCap (s : State) : (resetRegisters s).dstCap = (State.powerOn s.bufBytes).dstCap := rfl
@[simp] theorem resetRegisters_arg0 (s : State) : (resetRegisters s).arg0 = (State.powerOn s.bufBytes).arg0 := rfl
@[simp] theorem resetRegisters_arg1 (s : State) : (resetRegisters s).arg1 = (State.powerOn s.bufBytes).arg1 := rfl
@[simp] theorem resetRegisters_arg2 (s : State) : (resetRegisters s).arg2 = (State.powerOn s.bufBytes).arg2 := rfl
@[simp] theorem resetRegisters_arg3 (s : State) : (resetRegisters s).arg3 = (State.powerOn s.bufBytes).arg3 := rfl
@[simp] theorem resetRegisters_res0 (s : State) : (resetRegisters s).res0 = (State.powerOn s.bufBytes).res0 := rfl
@[simp] theorem resetRegisters_res1 (s : State) : (resetRegisters s).res1 = (State.powerOn s.bufBytes).res1 := rfl
@[simp] theorem resetRegisters_res2 (s : State) : (resetRegisters s).res2 = (State.powerOn s.bufBytes).res2 := rfl
@[simp] theorem resetRegisters_res3 (s : State) : (resetRegisters s).res3 = (State.powerOn s.bufBytes).res3 := rfl
@[simp] theorem resetRegisters_dataShards (s : State) : (resetRegisters s).dataShards = (State.powerOn s.bufBytes).dataShards := rfl
@[simp] theorem resetRegisters_parityShards (s : State) : (resetRegisters s).parityShards = (State.powerOn s.bufBytes).parityShards := rfl
@[simp] theorem resetRegisters_cfgChunk (s : State) : (resetRegisters s).cfgChunk = (State.powerOn s.bufBytes).cfgChunk := rfl
@[simp] theorem resetRegisters_compEn (s : State) : (resetRegisters s).compEn = (State.powerOn s.bufBytes).compEn := rfl
@[simp] theorem resetRegisters_cfgMargin (s : State) : (resetRegisters s).cfgMargin = (State.powerOn s.bufBytes).cfgMargin := rfl
@[simp] theorem resetRegisters_cfgBitdur (s : State) : (resetRegisters s).cfgBitdur = (State.powerOn s.bufBytes).cfgBitdur := rfl
@[simp] theorem resetRegisters_maxLen (s : State) : (resetRegisters s).maxLen = (State.powerOn s.bufBytes).maxLen := rfl
@[simp] theorem resetRegisters_mem (s : State) : (resetRegisters s).mem = s.mem := rfl
@[simp] theorem resetRegisters_faults (s : State) : (resetRegisters s).faults = s.faults := rfl
@[simp] theorem resetRegisters_stuck (s : State) : (resetRegisters s).stuck = (State.powerOn s.bufBytes).stuck := rfl
@[simp] theorem resetRegisters_inputs (s : State) : (resetRegisters s).inputs = s.inputs := rfl
@[simp] theorem resetRegisters_readData (s : State) : (resetRegisters s).readData = s.readData := rfl
@[simp] theorem resetRegisters_freeCount (s : State) : (resetRegisters s).freeCount = s.freeCount := rfl

/-! ### resetByInput (R302) -/

@[simp] theorem resetByInput_bufBytes (s : State) : (resetByInput s).bufBytes = s.bufBytes := rfl
@[simp] theorem resetByInput_irqEn (s : State) : (resetByInput s).irqEn = (State.powerOn s.bufBytes).irqEn := rfl
@[simp] theorem resetByInput_phase (s : State) : (resetByInput s).phase = (State.powerOn s.bufBytes).phase := rfl
@[simp] theorem resetByInput_done (s : State) : (resetByInput s).done = (State.powerOn s.bufBytes).done := rfl
@[simp] theorem resetByInput_valid (s : State) : (resetByInput s).valid = (State.powerOn s.bufBytes).valid := rfl
@[simp] theorem resetByInput_werr (s : State) : (resetByInput s).werr = (State.powerOn s.bufBytes).werr := rfl
@[simp] theorem resetByInput_rc (s : State) : (resetByInput s).rc = (State.powerOn s.bufBytes).rc := rfl
@[simp] theorem resetByInput_cmd (s : State) : (resetByInput s).cmd = (State.powerOn s.bufBytes).cmd := rfl
@[simp] theorem resetByInput_srcAddr (s : State) : (resetByInput s).srcAddr = (State.powerOn s.bufBytes).srcAddr := rfl
@[simp] theorem resetByInput_srcLen (s : State) : (resetByInput s).srcLen = (State.powerOn s.bufBytes).srcLen := rfl
@[simp] theorem resetByInput_dstAddr (s : State) : (resetByInput s).dstAddr = (State.powerOn s.bufBytes).dstAddr := rfl
@[simp] theorem resetByInput_dstCap (s : State) : (resetByInput s).dstCap = (State.powerOn s.bufBytes).dstCap := rfl
@[simp] theorem resetByInput_arg0 (s : State) : (resetByInput s).arg0 = (State.powerOn s.bufBytes).arg0 := rfl
@[simp] theorem resetByInput_arg1 (s : State) : (resetByInput s).arg1 = (State.powerOn s.bufBytes).arg1 := rfl
@[simp] theorem resetByInput_arg2 (s : State) : (resetByInput s).arg2 = (State.powerOn s.bufBytes).arg2 := rfl
@[simp] theorem resetByInput_arg3 (s : State) : (resetByInput s).arg3 = (State.powerOn s.bufBytes).arg3 := rfl
@[simp] theorem resetByInput_res0 (s : State) : (resetByInput s).res0 = (State.powerOn s.bufBytes).res0 := rfl
@[simp] theorem resetByInput_res1 (s : State) : (resetByInput s).res1 = (State.powerOn s.bufBytes).res1 := rfl
@[simp] theorem resetByInput_res2 (s : State) : (resetByInput s).res2 = (State.powerOn s.bufBytes).res2 := rfl
@[simp] theorem resetByInput_res3 (s : State) : (resetByInput s).res3 = (State.powerOn s.bufBytes).res3 := rfl
@[simp] theorem resetByInput_dataShards (s : State) : (resetByInput s).dataShards = (State.powerOn s.bufBytes).dataShards := rfl
@[simp] theorem resetByInput_parityShards (s : State) : (resetByInput s).parityShards = (State.powerOn s.bufBytes).parityShards := rfl
@[simp] theorem resetByInput_cfgChunk (s : State) : (resetByInput s).cfgChunk = (State.powerOn s.bufBytes).cfgChunk := rfl
@[simp] theorem resetByInput_compEn (s : State) : (resetByInput s).compEn = (State.powerOn s.bufBytes).compEn := rfl
@[simp] theorem resetByInput_cfgMargin (s : State) : (resetByInput s).cfgMargin = (State.powerOn s.bufBytes).cfgMargin := rfl
@[simp] theorem resetByInput_cfgBitdur (s : State) : (resetByInput s).cfgBitdur = (State.powerOn s.bufBytes).cfgBitdur := rfl
@[simp] theorem resetByInput_maxLen (s : State) : (resetByInput s).maxLen = (State.powerOn s.bufBytes).maxLen := rfl
@[simp] theorem resetByInput_mem (s : State) : (resetByInput s).mem = [] := rfl
@[simp] theorem resetByInput_faults (s : State) : (resetByInput s).faults = s.faults := rfl
@[simp] theorem resetByInput_stuck (s : State) : (resetByInput s).stuck = (State.powerOn s.bufBytes).stuck := rfl
@[simp] theorem resetByInput_inputs (s : State) : (resetByInput s).inputs = s.inputs := rfl
@[simp] theorem resetByInput_readData (s : State) : (resetByInput s).readData = s.readData := rfl
@[simp] theorem resetByInput_freeCount (s : State) : (resetByInput s).freeCount = s.freeCount := rfl

/-! ### loadCommand (R90) -/

@[simp] theorem loadCommand_bufBytes (s : State) (w : Word) : (loadCommand s w).bufBytes = s.bufBytes := rfl
@[simp] theorem loadCommand_irqEn (s : State) (w : Word) : (loadCommand s w).irqEn = s.irqEn := rfl
@[simp] theorem loadCommand_phase (s : State) (w : Word) : (loadCommand s w).phase = .busy := rfl
@[simp] theorem loadCommand_done (s : State) (w : Word) : (loadCommand s w).done = false := rfl
@[simp] theorem loadCommand_valid (s : State) (w : Word) : (loadCommand s w).valid = false := rfl
@[simp] theorem loadCommand_werr (s : State) (w : Word) : (loadCommand s w).werr = s.werr := rfl
@[simp] theorem loadCommand_rc (s : State) (w : Word) : (loadCommand s w).rc = .success := rfl
@[simp] theorem loadCommand_cmd (s : State) (w : Word) : (loadCommand s w).cmd = w := rfl
@[simp] theorem loadCommand_srcAddr (s : State) (w : Word) : (loadCommand s w).srcAddr = s.srcAddr := rfl
@[simp] theorem loadCommand_srcLen (s : State) (w : Word) : (loadCommand s w).srcLen = s.srcLen := rfl
@[simp] theorem loadCommand_dstAddr (s : State) (w : Word) : (loadCommand s w).dstAddr = s.dstAddr := rfl
@[simp] theorem loadCommand_dstCap (s : State) (w : Word) : (loadCommand s w).dstCap = s.dstCap := rfl
@[simp] theorem loadCommand_arg0 (s : State) (w : Word) : (loadCommand s w).arg0 = s.arg0 := rfl
@[simp] theorem loadCommand_arg1 (s : State) (w : Word) : (loadCommand s w).arg1 = s.arg1 := rfl
@[simp] theorem loadCommand_arg2 (s : State) (w : Word) : (loadCommand s w).arg2 = s.arg2 := rfl
@[simp] theorem loadCommand_arg3 (s : State) (w : Word) : (loadCommand s w).arg3 = s.arg3 := rfl
@[simp] theorem loadCommand_res0 (s : State) (w : Word) : (loadCommand s w).res0 = s.res0 := rfl
@[simp] theorem loadCommand_res1 (s : State) (w : Word) : (loadCommand s w).res1 = s.res1 := rfl
@[simp] theorem loadCommand_res2 (s : State) (w : Word) : (loadCommand s w).res2 = s.res2 := rfl
@[simp] theorem loadCommand_res3 (s : State) (w : Word) : (loadCommand s w).res3 = s.res3 := rfl
@[simp] theorem loadCommand_dataShards (s : State) (w : Word) : (loadCommand s w).dataShards = s.dataShards := rfl
@[simp] theorem loadCommand_parityShards (s : State) (w : Word) : (loadCommand s w).parityShards = s.parityShards := rfl
@[simp] theorem loadCommand_cfgChunk (s : State) (w : Word) : (loadCommand s w).cfgChunk = s.cfgChunk := rfl
@[simp] theorem loadCommand_compEn (s : State) (w : Word) : (loadCommand s w).compEn = s.compEn := rfl
@[simp] theorem loadCommand_cfgMargin (s : State) (w : Word) : (loadCommand s w).cfgMargin = s.cfgMargin := rfl
@[simp] theorem loadCommand_cfgBitdur (s : State) (w : Word) : (loadCommand s w).cfgBitdur = s.cfgBitdur := rfl
@[simp] theorem loadCommand_maxLen (s : State) (w : Word) : (loadCommand s w).maxLen = s.maxLen := rfl
@[simp] theorem loadCommand_mem (s : State) (w : Word) : (loadCommand s w).mem = s.mem := rfl
@[simp] theorem loadCommand_faults (s : State) (w : Word) : (loadCommand s w).faults = s.faults := rfl
@[simp] theorem loadCommand_stuck (s : State) (w : Word) : (loadCommand s w).stuck = false := rfl
@[simp] theorem loadCommand_inputs (s : State) (w : Word) : (loadCommand s w).inputs = coreFirst s.inputs := rfl
@[simp] theorem loadCommand_readData (s : State) (w : Word) : (loadCommand s w).readData = s.readData := rfl
@[simp] theorem loadCommand_freeCount (s : State) (w : Word) : (loadCommand s w).freeCount = s.freeCount := rfl

end Sys2Proof.Machine
end

