-- ==== Sys2Proof/Laws/Ops.lean ====
section
/-! SUPPORT. One lemma per shared operation that says once what it can do: finish, the common checks, Emit, the readers of
the SRC range, the core's turn and the step. -/

namespace Sys2Proof.Machine

/-! ### How an operation ends -/

@[simp] theorem finish_ok (s : State) (c : Completion) : finish s (.ok c) = .next (complete s c) := rfl

@[simp] theorem finish_error (s : State) (f : FaultName) : finish s (.error f) = .next (halt s f) := rfl

@[simp] theorem finish_raiseRc (s : State) (rc : ResultCode) : finish s (raiseRc rc) = .next (complete s { rc := rc }) := rfl

/-- An operation's step answers a next state: its completion, or the state halted at the fault it reached. -/
theorem finish_cases (s : State) (p : Perform) :
    (∃ c, p = .ok c ∧ finish s p = .next (complete s c)) ∨ (∃ f, p = .error f ∧ finish s p = .next (halt s f)) := by
  cases p with
  | ok c => exact .inl ⟨c, rfl, rfl⟩
  | error f => exact .inr ⟨f, rfl, rfl⟩

/-- What `finish` answers is a next state, which `finish_cases` names. -/
theorem finish_next {s t : State} {p : Perform} (h : finish s p = .next t) :
    (∃ c, p = .ok c ∧ t = complete s c) ∨ (∃ f, p = .error f ∧ t = halt s f) := by
  cases p with
  | ok c => exact .inl ⟨c, rfl, by simpa using h.symm⟩
  | error f => exact .inr ⟨f, rfl, by simpa using h.symm⟩

/-! ### The checks and the readers -/

/-- Emit answers DST_OVERFLOW with the RES registers named so far, or the full completion (R99). -/
theorem emit_cases (s : State) (sofar full : Completion) :
    (s.dstCap.toNat < full.out.length ∧ emit s sofar full = .ok { sofar with rc := .dstOverflow, out := [] })
      ∨ (full.out.length ≤ s.dstCap.toNat ∧ emit s sofar full = .ok full) := by
  unfold emit
  split
  · next h => exact .inl ⟨h, rfl⟩
  · next h => exact .inr ⟨by omega, rfl⟩

/-- The common checks raise ADDR_RANGE or OVERLAP, or the operation's own steps run (R98). -/
theorem prechecked_cases (i : Instr) (s : State) (own : Unit → Perform) :
    (∃ rc, commonCheck i s = some rc ∧ (rc = .addrRange ∨ rc = .overlap) ∧ prechecked i s own = raiseRc rc)
      ∨ (commonCheck i s = none ∧ prechecked i s own = own ()) := by
  cases h : commonCheck i s with
  | none => exact .inr ⟨rfl, by simp [prechecked, h]⟩
  | some rc =>
    refine .inl ⟨rc, rfl, ?_, by simp [prechecked, h]⟩
    simp only [commonCheck] at h
    split at h
    · exact .inl (by simpa using h.symm)
    · split at h
      · exact .inl (by simpa using h.symm)
      · split at h
        · exact .inr (by simpa using h.symm)
        · cases h

/-- Passing the common checks, spelled out (R98, R66). -/
theorem commonCheck_eq_none_iff (i : Instr) (s : State) :
    commonCheck i s = none ↔
      (readsRam i = true → s.srcAddr.toNat + srcBytes i s ≤ s.bufBytes)
        ∧ (writesRam i = true → s.dstAddr.toNat + s.dstCap.toNat ≤ s.bufBytes)
        ∧ (readsRam i = true → writesRam i = true →
            srcBytes i s = 0 ∨ s.dstCap.toNat = 0 ∨ s.srcAddr.toNat + srcBytes i s ≤ s.dstAddr.toNat
              ∨ s.dstAddr.toNat + s.dstCap.toNat ≤ s.srcAddr.toNat) := by
  unfold commonCheck rangesOverlap fits
  cases readsRam i <;> cases writesRam i <;> simp <;> split_ifs <;> simp <;> omega

theorem withSrcBytes_some {s : State} {n : Nat} {d : List Byte} (own : List Byte → Perform)
    (h : memBytes s.mem s.srcAddr.toNat n = some d) : withSrcBytes s n own = own d := by
  simp [withSrcBytes, h]

theorem withSrcBytes_none {s : State} {n : Nat} (own : List Byte → Perform)
    (h : memBytes s.mem s.srcAddr.toNat n = none) : withSrcBytes s n own = .error .uninitRead := by
  simp [withSrcBytes, h]

theorem withSrcBits_some {s : State} {n : Nat} {b : List Bool} (own : List Bool → Perform)
    (h : bitsIn s.mem s.srcAddr.toNat n = some b) : withSrcBits s n own = own b := by
  simp [withSrcBits, h]

theorem withSrcBits_none {s : State} {n : Nat} (own : List Bool → Perform)
    (h : bitsIn s.mem s.srcAddr.toNat n = none) : withSrcBits s n own = .error .uninitRead := by
  simp [withSrcBits, h]

theorem withSamples_some {s : State} {n : Nat} {v : List Nat} (own : List Nat → Perform)
    (h : samplesAt s.mem s.srcAddr.toNat n = some v) : withSamples s n own = own v := by
  simp [withSamples, h]

theorem withSamples_none {s : State} {n : Nat} (own : List Nat → Perform)
    (h : samplesAt s.mem s.srcAddr.toNat n = none) : withSamples s n own = .error .uninitRead := by
  simp [withSamples, h]

/-- A stream of L bits has L bits. -/
theorem bitsIn_length {m : Memory} {base n : Nat} {b : List Bool} (h : bitsIn m base n = some b) : b.length = n := by
  simp only [bitsIn, Option.map_eq_some_iff] at h
  obtain ⟨bs, hbs, rfl⟩ := h
  have hl := memBytes_length hbs
  simp [hl, bytesOfBits]
  omega

/-! ### The core's turn and the step -/

theorem coreTurn_enabled {s : State} (hb : s.phase = .busy) (hs : s.stuck = false) : coreTurn s = runCommand s := by
  simp [coreTurn, coreEnabled, busy, hb, hs]

theorem coreTurn_disabled {s : State} (h : s.phase = .idle ∨ s.stuck = true) : coreTurn s = .next s := by
  rcases h with h | h <;> simp [coreTurn, coreEnabled, busy, h]

theorem runCommand_ok {s : State} {i : Instr} (h : decode s.cmd = .ok i) : runCommand s = exec i s := by
  simp [runCommand, h]

theorem runCommand_error {s : State} {e : DecodeError} (h : decode s.cmd = .error e) :
    runCommand s = .next (complete s { rc := .illegalOpcode }) := by
  simp [runCommand, h, completeIllegal]

theorem step_nil {s : State} (h : s.inputs = []) : step s = lastTurn s := by simp [step, h]

theorem step_cons {s : State} {e : Input} {rest : List Input} (h : s.inputs = e :: rest) :
    step s = takeInput { s with inputs := rest } e := by simp [step, h]

/-- A host event other than the core's turn always answers a next state. -/
theorem takeInput_host {s : State} {e : Input} (h : e ≠ .coreTurn) : takeInput s e = .next (hostEvent s e) := by
  cases e <;> first | rfl | exact absurd rfl h

/-! ### The canonical form, through resets -/

theorem abortByte_wf {m : Memory} (fresh a : Nat) (h : Memory.wf m = true) : Memory.wf (abortByte fresh m a) = true := by
  unfold abortByte
  cases Config.abortedByte fresh a with
  | none => exact h
  | some v => exact writeByte_wf m a v h

/-- What an abort leaves in buffer RAM is in canonical form (R303). -/
theorem abortedMem_wf {s : State} (h : Memory.wf s.mem = true) : Memory.wf (abortedMem s) = true := by
  unfold abortedMem
  generalize abortedRange s = as
  generalize s.mem = m at h
  induction as generalizing m with
  | nil => exact h
  | cons a as ih => exact ih _ (abortByte_wf _ a h)

/-- Buffer RAM after reset is in canonical form. -/
theorem reset_mem_wf : Memory.wf State.reset.mem = true := rfl

end Sys2Proof.Machine
end

