-- ==== Sys2Proof/Laws/Exec.lean ====
section
/-! SUPPORT. What `exec` does, once for all operations: it is the core's step on the operation's own steps behind the
common checks. And what the terms of Safety.lean say of it. -/

namespace Sys2Proof.Machine

/-- An operation's own steps, after the common checks. -/
def performOf (i : Instr) (s : State) : Perform :=
  match i with
  | .luma => performLuma s
  | .threshold => performThreshold s
  | .bitDecide => performBitDecide s
  | .parBit => performParBit s
  | .parCheck => performParCheck s
  | .parEncode => performParEncode s
  | .parDecode => performParDecode s
  | .crc16 => performCrc16 s
  | .frameCreate => performFrameCreate s
  | .frameParse => performFrameParse s
  | .chunk => performChunk s
  | .reassemble => performReassemble s
  | .lzCompress => performLzCompress s
  | .lzDecompress => performLzDecompress s
  | .compressData => performCompressData s
  | .fecEncode => performFecEncode s
  | .fecDecode => performFecDecode s
  | .envWrap => performEnvWrap s
  | .envUnwrap => performEnvUnwrap s

/-- Every operation is its own steps behind the common checks, finished as R97 says. -/
theorem exec_eq (i : Instr) (s : State) : exec i s = finish s (prechecked i s fun _ => performOf i s) := by
  cases i <;> rfl

/-- Past the common checks, an operation is its own steps. -/
theorem exec_of_checked {i : Instr} {s : State} (h : commonCheck i s = none) : exec i s = finish s (performOf i s) := by
  rw [exec_eq, prechecked, h]

/-- Where a common check fails, the operation completes with its code and every RES register 0. -/
theorem exec_of_check_failed {i : Instr} {s : State} {rc : ResultCode} (h : commonCheck i s = some rc) :
    exec i s = .next (complete s { rc := rc }) := by
  rw [exec_eq, prechecked, h]; rfl

/-- The core's step of R97 is a completion in the sense of `CompletedAs`. -/
theorem completedAs_complete (s : State) (c : Completion) :
    CompletedAs s (complete s c) c.rc c.res0 c.res1 c.res2 c.res3 c.out :=
  ⟨rfl, rfl, rfl, rfl, rfl, rfl, rfl, rfl, fun a => readByte_putBytes s.mem s.dstAddr.toNat c.out a, rfl⟩

theorem ends_of_finish {i : Instr} {s : State} {c : Completion} (h : exec i s = finish s (.ok c)) :
    Ends i s c.rc c.res0 c.res1 c.res2 c.res3 c.out :=
  ⟨complete s c, h, completedAs_complete s c⟩

theorem ends_of_raise {i : Instr} {s : State} {rc : ResultCode} (h : exec i s = finish s (raiseRc rc)) :
    Ends i s rc 0 0 0 0 [] :=
  ends_of_finish h

theorem halts_of_finish {i : Instr} {s : State} (h : exec i s = finish s (.error .uninitRead)) : Halts i s :=
  ⟨halt s .uninitRead, h, rfl⟩

/-- Emit, in the sense of `Emits` (R99). -/
theorem emits_of_finish {i : Instr} {s : State} {sofar full : Completion} (h : exec i s = finish s (emit s sofar full)) :
    Emits i s sofar.res0 sofar.res1 sofar.res2 sofar.res3 full.rc full.res0 full.res1 full.res2 full.res3 full.out := by
  refine ⟨fun hl => ?_, fun hl => ?_⟩
  · rw [emit, if_pos hl] at h
    exact ends_of_finish h
  · rw [emit, if_neg (by omega)] at h
    exact ends_of_finish h

/-- The common checks of an operation that reads n bytes and writes none, in the sense of `ReaderChecks`. -/
theorem readerChecks_of {i : Instr} {s : State} {n : Nat} {own : Prop} (hr : readsRam i = true) (hw : writesRam i = false)
    (hn : srcBytes i s = n) (h : exec i s = finish s (performOf i s) → own) : ReaderChecks i s n own := by
  subst hn
  refine ⟨fun hf => ?_, fun hf => h (exec_of_checked ?_)⟩
  · refine ends_of_finish (c := { rc := .addrRange }) (exec_of_check_failed ?_)
    simp only [commonCheck, hr, fits, Bool.true_and]
    rw [if_pos (by simpa using hf)]
  · rw [commonCheck_eq_none_iff]
    simp [hr, hw]
    exact hf

/-- The common checks of an operation that reads n bytes and writes buffer RAM, in the sense of `WriterChecks`. -/
theorem writerChecks_of {i : Instr} {s : State} {n : Nat} {own : Prop} (hr : readsRam i = true) (hw : writesRam i = true)
    (hn : srcBytes i s = n) (h : exec i s = finish s (performOf i s) → own) : WriterChecks i s n own := by
  subst hn
  refine ⟨fun hf => ?_, fun hf hd => ?_, fun hf hd ha => ?_, fun hf hd ha => h (exec_of_checked ?_)⟩
  · refine ends_of_finish (c := { rc := .addrRange }) (exec_of_check_failed ?_)
    simp only [commonCheck, hr, fits, Bool.true_and]
    rw [if_pos (by simpa using hf)]
  · refine ends_of_finish (c := { rc := .addrRange }) (exec_of_check_failed ?_)
    simp only [commonCheck, hr, hw, fits, Bool.true_and]
    rw [if_neg (by simpa using hf), if_pos (by simpa using hd)]
  · refine ends_of_finish (c := { rc := .overlap }) (exec_of_check_failed ?_)
    simp only [commonCheck, hr, hw, fits, Bool.true_and, rangesOverlap]
    rw [if_neg (by simpa using hf), if_neg (by simpa using hd), if_pos]
    simp only [not_or] at ha
    simp only [Bool.and_eq_true, decide_eq_true_eq]
    omega
  · rw [commonCheck_eq_none_iff]
    exact ⟨fun _ => hf, fun _ => hd, fun _ _ => ha⟩

/-! ### The SRC range, through single bytes and bits -/

theorem memBytes_eq_none_iff (m : Memory) (addr n : Nat) :
    memBytes m addr n = none ↔ ∃ k, k < n ∧ readByte m (addr + k) = none := by
  induction n generalizing addr with
  | zero => simp [memBytes]
  | succ n ih =>
    simp only [memBytes]
    cases h : readByte m addr with
    | none => simp only [true_iff]; exact ⟨0, by omega, by simpa using h⟩
    | some b =>
      simp only [Option.map_eq_none_iff, ih]
      constructor
      · rintro ⟨k, hk, hr⟩
        exact ⟨k + 1, by omega, by simpa [Nat.add_assoc, Nat.add_comm 1 k] using hr⟩
      · rintro ⟨k, hk, hr⟩
        cases k with
        | zero => simp [h] at hr
        | succ k => exact ⟨k, by omega, by simpa [Nat.add_assoc, Nat.add_comm 1 k] using hr⟩

/-- An operation that goes on with n SRC bytes, in the sense of `OnSrcBytes`. -/
theorem onSrcBytes_of {i : Instr} {s : State} {n : Nat} {k : List Byte → Perform} {own : List Byte → Prop}
    (hx : exec i s = finish s (withSrcBytes s n k)) (h : ∀ d, d.length = n → exec i s = finish s (k d) → own d) :
    OnSrcBytes i s n own := by
  refine ⟨fun hu => halts_of_finish ?_, fun d hd => h d hd.1 ?_⟩
  · rw [hx, withSrcBytes_none k ((memBytes_eq_none_iff _ _ _).2 hu)]
  · rw [hx, withSrcBytes_some k ((memBytes_eq_some_iff _ _ _ _).2 hd)]

theorem bitsMSB_getElem? (w v k : Nat) : (bitsMSB w v)[k]? = if k < w then some (v.testBit (w - 1 - k)) else none := by
  induction w generalizing k with
  | zero => simp [bitsMSB]
  | succ w ih =>
    cases k with
    | zero => simp [bitsMSB]
    | succ k =>
      simp only [bitsMSB, List.getElem?_cons_succ, ih]
      by_cases h : k < w
      · rw [if_pos h, if_pos (by omega)]
        congr 2
        omega
      · rw [if_neg h, if_neg (by omega)]

/-- Stream bit k is bit 7 − (k mod 8) of byte k div 8 (R67). -/
theorem bytesBits_getElem? (bs : List Byte) (k : Nat) :
    (bytesBits bs)[k]? = (bs[k / 8]?).map fun b => decide (b.toNat / 2 ^ (7 - k % 8) % 2 = 1) := by
  induction bs generalizing k with
  | nil => simp
  | cons b bs ih =>
    rw [bytesBits_cons]
    by_cases h : k < 8
    · rw [List.getElem?_append_left (by simpa using h)]
      have h0 : k / 8 = 0 := by omega
      rw [byteBits, bitsMSB_getElem?, if_pos h, h0]
      have h1 : k % 8 = k := by omega
      simp [Nat.testBit_eq_decide_div_mod_eq, h1]
    · rw [List.getElem?_append_right (by simp; omega), ih]
      have h0 : k / 8 = (k - 8) / 8 + 1 := by omega
      have h1 : (k - 8) % 8 = k % 8 := by omega
      simp [h0, h1]

/-- BitsIn through its single bits and bytes (R68). -/
theorem bitsIn_eq_some_iff (m : Memory) (base n : Nat) (b : List Bool) :
    bitsIn m base n = some b ↔
      b.length = n ∧ (∀ k, k < (n + 7) / 8 → (readByte m (base + k)).isSome = true) ∧ ∀ k, k < n → bitRead m base k = b[k]? := by
  constructor
  · intro h
    have hl := bitsIn_length h
    simp only [bitsIn, Option.map_eq_some_iff] at h
    obtain ⟨bs, hbs, rfl⟩ := h
    obtain ⟨hlen, hk⟩ := (memBytes_eq_some_iff _ _ _ _).1 hbs
    refine ⟨hl, fun k hkn => ?_, fun k hkn => ?_⟩
    · rw [hk k hkn, List.getElem?_eq_getElem (by rw [hlen]; exact hkn)]; rfl
    · rw [List.getElem?_take_of_lt hkn, bytesBits_getElem?, bitRead, hk (k / 8) (by simp only [bytesOfBits]; omega)]
  · rintro ⟨hl, hi, hb⟩
    cases hm : memBytes m base (bytesOfBits n) with
    | none =>
      obtain ⟨k, hk, hr⟩ := (memBytes_eq_none_iff _ _ _).1 hm
      have := hi k hk
      simp [hr] at this
    | some bs =>
      obtain ⟨hlen, hk⟩ := (memBytes_eq_some_iff _ _ _ _).1 hm
      simp only [bitsIn, hm, Option.map_some, Option.some.injEq]
      apply List.ext_getElem?
      intro k
      by_cases hkn : k < n
      · rw [List.getElem?_take_of_lt hkn, bytesBits_getElem?, ← hb k hkn, bitRead,
          hk (k / 8) (by simp only [bytesOfBits]; omega)]
      · rw [List.getElem?_eq_none (by simp only [List.length_take]; omega), List.getElem?_eq_none (by omega)]

theorem bitsIn_eq_none_iff (m : Memory) (base n : Nat) :
    bitsIn m base n = none ↔ ∃ k, k < (n + 7) / 8 ∧ readByte m (base + k) = none := by
  simp only [bitsIn, Option.map_eq_none_iff, memBytes_eq_none_iff, bytesOfBits]

/-- An operation that goes on with a stream of n SRC bits, in the sense of `OnSrcBits`. -/
theorem onSrcBits_of {i : Instr} {s : State} {n : Nat} {k : List Bool → Perform} {own : List Bool → Prop}
    (hx : exec i s = finish s (withSrcBits s n k)) (h : ∀ b, b.length = n → exec i s = finish s (k b) → own b) :
    OnSrcBits i s n own := by
  refine ⟨fun hu => halts_of_finish ?_, fun b hb => h b hb.1 ?_⟩
  · rw [hx, withSrcBits_none k ((bitsIn_eq_none_iff _ _ _).2 hu)]
  · rw [hx, withSrcBits_some k ((bitsIn_eq_some_iff _ _ _ _).2 hb)]

theorem samplesAt_eq_some_iff (m : Memory) (addr n : Nat) (v : List Nat) :
    samplesAt m addr n = some v ↔ v.length = n ∧ ∀ k, k < n → memRead m (addr + 4 * k) 4 = v[k]? := by
  induction n generalizing addr v with
  | zero => cases v <;> simp [samplesAt]
  | succ n ih =>
    simp only [samplesAt]
    cases h : memRead m addr 4 with
    | none =>
      simp only [reduceCtorEq, false_iff, not_and]
      intro hd hk
      have := hk 0 (by omega)
      simp [h] at this
      cases v <;> simp_all
    | some x =>
      simp only [Option.map_eq_some_iff, ih]
      constructor
      · rintro ⟨v', ⟨hl, hk⟩, rfl⟩
        refine ⟨by simp [hl], fun k hkn => ?_⟩
        cases k with
        | zero => simp [h]
        | succ k =>
          rw [show addr + 4 * (k + 1) = addr + 4 + 4 * k by omega, hk k (by omega)]
          rfl
      · rintro ⟨hl, hk⟩
        cases v with
        | nil => simp at hl
        | cons y v =>
          have h0 := hk 0 (by omega)
          simp [h] at h0
          subst h0
          refine ⟨v, ⟨by simpa using hl, fun k hkn => ?_⟩, rfl⟩
          have := hk (k + 1) (by omega)
          rw [show addr + 4 * (k + 1) = addr + 4 + 4 * k by omega] at this
          simpa using this

theorem samplesAt_eq_none_iff (m : Memory) (addr n : Nat) :
    samplesAt m addr n = none ↔ ∃ k, k < 4 * n ∧ readByte m (addr + k) = none := by
  induction n generalizing addr with
  | zero => simp [samplesAt]
  | succ n ih =>
    simp only [samplesAt]
    cases h : memRead m addr 4 with
    | none =>
      simp only [true_iff]
      simp only [memRead, Option.map_eq_none_iff, memBytes_eq_none_iff] at h
      obtain ⟨k, hk, hr⟩ := h
      exact ⟨k, by omega, hr⟩
    | some x =>
      simp only [Option.map_eq_none_iff, ih]
      constructor
      · rintro ⟨k, hk, hr⟩
        exact ⟨k + 4, by omega, by rw [show addr + (k + 4) = addr + 4 + k by omega]; exact hr⟩
      · rintro ⟨k, hk, hr⟩
        have h4 : 4 ≤ k := by
          by_contra hlt
          have : memRead m addr 4 = none := by
            simp only [memRead, Option.map_eq_none_iff, memBytes_eq_none_iff]
            exact ⟨k, by omega, hr⟩
          simp [this] at h
        exact ⟨k - 4, by omega, by rw [show addr + 4 + (k - 4) = addr + k by omega]; exact hr⟩

/-- An operation that goes on with n samples, in the sense of `OnSamples`. -/
theorem onSamples_of {i : Instr} {s : State} {n : Nat} {k : List Nat → Perform} {own : List Nat → Prop}
    (hx : exec i s = finish s (withSamples s n k)) (h : ∀ v, v.length = n → exec i s = finish s (k v) → own v) :
    OnSamples i s n own := by
  refine ⟨fun hu => halts_of_finish ?_, fun v hv => h v hv.1 ?_⟩
  · rw [hx, withSamples_none k ((samplesAt_eq_none_iff _ _ _).2 hu)]
  · rw [hx, withSamples_some k ((samplesAt_eq_some_iff _ _ _ _).2 hv)]

/-- Every operation answers a next state: a completion or the halted state. -/
theorem exec_next {i : Instr} {s t : State} (h : exec i s = .next t) :
    (∃ c, prechecked i s (fun _ => performOf i s) = .ok c ∧ t = complete s c)
      ∨ (∃ f, prechecked i s (fun _ => performOf i s) = .error f ∧ t = halt s f) := by
  rw [exec_eq] at h
  exact finish_next h

end Sys2Proof.Machine
end

