-- ==== Sys2Proof/Laws/Formats.lean ====
section
/-! SUPPORT. The functions that read and write the data formats, said once in the words of Safety.lean: argument fields,
parity frames, the START search, big-endian numbers, token streams and the FEC fold. -/

namespace Sys2Proof.Machine

/-! ### Argument fields (R94) -/

theorem field_eq_extract (v : Word) (hi lo : Nat) : field v hi lo = (v.extractLsb' lo (hi + 1 - lo)).toNat := by
  simp [field, BitVec.extractLsb'_toNat, Nat.shiftRight_eq_div_pow]

/-- The reserved-bits tests of R94 compare a field with 0. -/
theorem field_ne_zero (v : Word) (hi lo : Nat) : field v hi lo ≠ 0 ↔ v.extractLsb' lo (hi + 1 - lo) ≠ 0 := by
  rw [field_eq_extract v hi lo, ne_eq, ne_eq, ← BitVec.toNat_inj]; simp

theorem lowByte_eq_extract (v : Word) : lowByte v = v.extractLsb' 0 8 := by
  rw [lowByte, field_eq_extract, BitVec.ofNat_toNat, BitVec.setWidth_eq]

/-- The eight bits of a byte operand are the low bits of its register, the most significant first. -/
theorem byteBits_lowByte (v : Word) : byteBits (lowByte v) = bitsMSB 8 v.toNat := by
  apply List.ext_getElem?
  intro k
  simp only [byteBits, bitsMSB_getElem?]
  split
  · rw [lowByte, field, BitVec.toNat_ofNat]
    simp only [Nat.pow_zero, Nat.div_one, Nat.mod_mod]
    rw [Nat.testBit_mod_two_pow]
    simp
    omega
  · rfl

/-! ### The START search (R185) -/

theorem take_eight_eq_start_iff (b : List Bool) :
    b.take 8 = byteBits Config.startSentinel ↔ ∀ k, k < 8 → b[k]? = some true := by
  have e : byteBits Config.startSentinel = List.replicate 8 true := by decide
  rw [e]
  constructor
  · intro h k hk
    rw [← List.getElem?_take_of_lt hk, h, List.getElem?_replicate, if_pos hk]
  · intro h
    apply List.ext_getElem?
    intro k
    by_cases hk : k < 8
    · rw [List.getElem?_take_of_lt hk, h k hk, List.getElem?_replicate, if_pos hk]
    · rw [List.getElem?_take, List.getElem?_replicate, if_neg hk, if_neg hk]

/-- HUNT finds the least offset at which eight 1 bits stand. -/
theorem huntStart_eq_some_iff (b : List Bool) (st : Nat) : huntStart b = some st ↔ IsFirstStart b st := by
  induction b generalizing st with
  | nil =>
    simp only [huntStart, IsFirstStart, reduceCtorEq, false_iff]
    rintro ⟨h, -⟩
    have := h 0 (by omega)
    simp at this
  | cons x b ih =>
    simp only [huntStart]
    by_cases h : (x :: b).take 8 = byteBits Config.startSentinel
    · rw [if_pos h]
      have h' := (take_eight_eq_start_iff _).1 h
      constructor
      · intro e
        obtain rfl : 0 = st := by simpa using e
        exact ⟨by simpa using h', fun i hi => by omega⟩
      · rintro ⟨-, h2⟩
        cases st with
        | zero => rfl
        | succ st =>
          obtain ⟨k, hk, hne⟩ := h2 0 (by omega)
          exact absurd (h' k hk) (by simpa using hne)
    · rw [if_neg h]
      cases st with
      | zero =>
        simp only [Option.map_eq_some_iff]
        constructor
        · rintro ⟨a, -, h⟩
          omega
        · rintro ⟨h1, -⟩
          exact absurd ((take_eight_eq_start_iff _).2 (by simpa using h1)) h
      | succ st =>
        have : (huntStart b).map (· + 1) = some (st + 1) ↔ huntStart b = some st := by cases huntStart b <;> simp
        rw [this, ih]
        simp only [IsFirstStart]
        constructor
        · rintro ⟨h1, h2⟩
          refine ⟨fun k hk => by rw [show st + 1 + k = st + k + 1 by omega]; simpa using h1 k hk, fun i hi => ?_⟩
          cases i with
          | zero =>
            by_contra hc
            push Not at hc
            exact h ((take_eight_eq_start_iff _).2 (by simpa using hc))
          | succ i =>
            obtain ⟨k, hk, hn⟩ := h2 i (by omega)
            exact ⟨k, hk, by rw [show i + 1 + k = i + k + 1 by omega]; simpa using hn⟩
        · rintro ⟨h1, h2⟩
          refine ⟨fun k hk => ?_, fun i hi => ?_⟩
          · have := h1 k hk
            rw [show st + 1 + k = st + k + 1 by omega] at this
            simpa using this
          · obtain ⟨k, hk, hn⟩ := h2 (i + 1) (by omega)
            exact ⟨k, hk, by rw [show i + 1 + k = i + k + 1 by omega] at hn; simpa using hn⟩

/-- The payload of R185, byte by byte. -/
theorem streamBytes_eq_map (b : List Bool) (off n : Nat) :
    streamBytes b off n = (List.range n).map (fun j => BitVec.ofNat 8 (valMSB (slice b (off + 8 * j) 8))) := by
  induction n generalizing off with
  | zero => rfl
  | succ n ih =>
    rw [streamBytes, ih, List.range_succ_eq_map]
    simp [streamField, slice, Function.comp_def, Nat.mul_add, Nat.add_assoc, Nat.add_comm 8]

/-! ### Big-endian numbers (R62, R63) -/

theorem beVal_concat (x : List Byte) (b : Byte) : beVal (x ++ [b]) = beVal x * 256 + b.toNat := by simp [beVal]

theorem beVal_cons (b : Byte) (x : List Byte) : beVal (b :: x) = b.toNat * 256 ^ x.length + beVal x := by
  induction x using List.reverseRecOn with
  | nil => simp [beVal]
  | append_singleton x y ih =>
    rw [← List.cons_append, beVal_concat, beVal_concat, ih]
    simp [pow_succ]
    ring

theorem beVal_beBytes (n v : Nat) : beVal (beBytes n v) = v % 256 ^ n := by
  induction n generalizing v with
  | zero => simp [beBytes, beVal, Nat.mod_one]
  | succ n ih =>
    rw [beBytes, beVal_cons, ih, beBytes_length, BitVec.toNat_ofNat, pow_succ (256 : Nat) n, Nat.mod_mul]
    ring

theorem beVal_lt (x : List Byte) : beVal x < 256 ^ x.length := by
  induction x using List.reverseRecOn with
  | nil => simp [beVal]
  | append_singleton x y ih =>
    rw [beVal_concat, List.length_append, List.length_singleton, pow_succ]
    have := y.isLt
    omega

/-! ### Bit strings (R11) -/

theorem valMSB_concat (b : List Bool) (x : Bool) : valMSB (b ++ [x]) = 2 * valMSB b + x.toNat := by simp [valMSB]

theorem valMSB_cons (x : Bool) (b : List Bool) : valMSB (x :: b) = x.toNat * 2 ^ b.length + valMSB b := by
  induction b using List.reverseRecOn with
  | nil => simp [valMSB]
  | append_singleton b y ih =>
    rw [← List.cons_append, valMSB_concat, valMSB_concat, ih]
    simp [pow_succ]
    ring

/-- `valMSB` is the inverse of `bitsMSB` on the numbers that fit the width. -/
theorem valMSB_bitsMSB (w v : Nat) : valMSB (bitsMSB w v) = v % 2 ^ w := by
  induction w with
  | zero => simp [bitsMSB, valMSB, Nat.mod_one]
  | succ w ih =>
    rw [bitsMSB, valMSB_cons, ih, bitsMSB_length, pow_succ, Nat.mod_mul, Nat.testBit_eq_decide_div_mod_eq]
    rcases Nat.mod_two_eq_zero_or_one (v / 2 ^ w) with h | h <;> simp [h]
    omega

theorem valMSB_byteBits (b : Byte) : valMSB (byteBits b) = b.toNat := by
  rw [byteBits, valMSB_bitsMSB]
  exact Nat.mod_eq_of_lt b.isLt

/-! ### Token streams (R218) -/

/-- The length of a serialised token list: 9 bits a literal, 21 bits a match. -/
theorem lzSer_length (ts : List LzToken) :
    (lzSer ts).length = 9 * (ts.filter fun x => !x.isCopy).length + 21 * (ts.filter LzToken.isCopy).length := by
  induction ts with
  | nil => rfl
  | cons t ts ih => cases t <;> simp [lzSer, tokenBits, LzToken.isCopy, List.filter_cons] at ih ⊢ <;> omega

/-! ### The FEC fold (R240) -/

theorem fecFold_eq_foldOf (d : List Byte) (j : Nat) : fecFold d j = foldOf d j := by
  have : ∀ (d : List Byte) (a : Byte),
      d.foldl (fun acc x => acc ^^^ (x ^^^ BitVec.ofNat 8 (j + 1))) a = a ^^^ foldOf d j := by
    intro d
    induction d with
    | nil => intro a; simp [foldOf]
    | cons x d ih => intro a; simp only [List.foldl_cons, ih]; simp [foldOf, BitVec.xor_assoc]
  simpa [fecFold] using this d 0

/-- Patching keeps the length of the data. -/
@[simp] theorem fecPatch_length (d : List Byte) (delta : Byte) : (fecPatch d delta).length = d.length := by
  unfold fecPatch
  split <;> simp

/-- Patching as a change of one byte (R242). -/
theorem fecPatch_eq_modify (d : List Byte) (delta : Byte) :
    fecPatch d delta = if d.length = 0 then d else d.modify (delta.toNat % d.length) (· ^^^ delta) := by
  unfold fecPatch
  split
  · rfl
  · next h =>
    have hlt : delta.toNat % d.length < d.length := Nat.mod_lt _ (by omega)
    rw [List.modify_eq_set_getElem?, List.getElem?_eq_getElem hlt]
    simp [List.getElem?_eq_getElem hlt]

end Sys2Proof.Machine
end

