-- ==== Sys2Proof/Laws/PerInstr.lean ====
section
/-! SUPPORT. Facts about every instruction as syntax, one lemma per constructor of `Instr`. -/

/-- The command word of an operation passes both checks of R93, and the decoder reads the operation back from it, also where
the word is given as the opcode table numbers it. -/
def Sys2Proof.Laws.WordIsLegal.Statement (i : Sys2Proof.Instr) : Prop :=
  Sys2Proof.reservedIsZero (Sys2Proof.encode i) = true ∧ Sys2Proof.opcodeIsAssigned (Sys2Proof.encode i) = true
    ∧ Sys2Proof.decode (Sys2Proof.encode i) = .ok i
    ∧ Sys2Proof.decodeTableWord 32 (Sys2Proof.encode i).toNat = some i

theorem Sys2Proof.Laws.WordIsLegal.luma : Sys2Proof.Laws.WordIsLegal.Statement .luma := ⟨rfl, rfl, rfl, rfl⟩

theorem Sys2Proof.Laws.WordIsLegal.threshold : Sys2Proof.Laws.WordIsLegal.Statement .threshold := ⟨rfl, rfl, rfl, rfl⟩

theorem Sys2Proof.Laws.WordIsLegal.bitDecide : Sys2Proof.Laws.WordIsLegal.Statement .bitDecide := ⟨rfl, rfl, rfl, rfl⟩

theorem Sys2Proof.Laws.WordIsLegal.parBit : Sys2Proof.Laws.WordIsLegal.Statement .parBit := ⟨rfl, rfl, rfl, rfl⟩

theorem Sys2Proof.Laws.WordIsLegal.parCheck : Sys2Proof.Laws.WordIsLegal.Statement .parCheck := ⟨rfl, rfl, rfl, rfl⟩

theorem Sys2Proof.Laws.WordIsLegal.parEncode : Sys2Proof.Laws.WordIsLegal.Statement .parEncode := ⟨rfl, rfl, rfl, rfl⟩

theorem Sys2Proof.Laws.WordIsLegal.parDecode : Sys2Proof.Laws.WordIsLegal.Statement .parDecode := ⟨rfl, rfl, rfl, rfl⟩

theorem Sys2Proof.Laws.WordIsLegal.crc16 : Sys2Proof.Laws.WordIsLegal.Statement .crc16 := ⟨rfl, rfl, rfl, rfl⟩

theorem Sys2Proof.Laws.WordIsLegal.frameCreate : Sys2Proof.Laws.WordIsLegal.Statement .frameCreate := ⟨rfl, rfl, rfl, rfl⟩

theorem Sys2Proof.Laws.WordIsLegal.frameParse : Sys2Proof.Laws.WordIsLegal.Statement .frameParse := ⟨rfl, rfl, rfl, rfl⟩

theorem Sys2Proof.Laws.WordIsLegal.chunk : Sys2Proof.Laws.WordIsLegal.Statement .chunk := ⟨rfl, rfl, rfl, rfl⟩

theorem Sys2Proof.Laws.WordIsLegal.reassemble : Sys2Proof.Laws.WordIsLegal.Statement .reassemble := ⟨rfl, rfl, rfl, rfl⟩

theorem Sys2Proof.Laws.WordIsLegal.lzCompress : Sys2Proof.Laws.WordIsLegal.Statement .lzCompress := ⟨rfl, rfl, rfl, rfl⟩

theorem Sys2Proof.Laws.WordIsLegal.lzDecompress : Sys2Proof.Laws.WordIsLegal.Statement .lzDecompress := ⟨rfl, rfl, rfl, rfl⟩

theorem Sys2Proof.Laws.WordIsLegal.compressData : Sys2Proof.Laws.WordIsLegal.Statement .compressData := ⟨rfl, rfl, rfl, rfl⟩

theorem Sys2Proof.Laws.WordIsLegal.fecEncode : Sys2Proof.Laws.WordIsLegal.Statement .fecEncode := ⟨rfl, rfl, rfl, rfl⟩

theorem Sys2Proof.Laws.WordIsLegal.fecDecode : Sys2Proof.Laws.WordIsLegal.Statement .fecDecode := ⟨rfl, rfl, rfl, rfl⟩

theorem Sys2Proof.Laws.WordIsLegal.envWrap : Sys2Proof.Laws.WordIsLegal.Statement .envWrap := ⟨rfl, rfl, rfl, rfl⟩

theorem Sys2Proof.Laws.WordIsLegal.envUnwrap : Sys2Proof.Laws.WordIsLegal.Statement .envUnwrap := ⟨rfl, rfl, rfl, rfl⟩
end

