-- ==== Sys2Proof/Tests/Slice0.lean ====
section
/-! SUPPORT. Tests: command words written out from the opcode map, ill-formed words the checks refuse, the spec's own
examples (40–46 and 95_test_vectors.md), one step each. The witnesses for the statements stand in Tests/Witnesses.lean. -/

namespace Sys2Proof.Tests

open Sys2Proof Sys2Proof.Machine

-- One thread at a time: the kernel evaluations below would otherwise reserve memory for several.
set_option Elab.async false

/-! ### Command words, bit by bit (R26, R91): CMD[31:8] = 0, CMD[7:0] = the opcode -/

theorem test_decode_luma : decode 0b00000000000000000000000000000001 = .ok .luma := by decide
theorem test_decode_threshold : decode 0b00000000000000000000000000000010 = .ok .threshold := by decide
theorem test_decode_bitDecide : decode 0b00000000000000000000000000000011 = .ok .bitDecide := by decide
theorem test_decode_parBit : decode 0b00000000000000000000000000000100 = .ok .parBit := by decide
theorem test_decode_parCheck : decode 0b00000000000000000000000000000101 = .ok .parCheck := by decide
theorem test_decode_parEncode : decode 0b00000000000000000000000000000110 = .ok .parEncode := by decide
theorem test_decode_parDecode : decode 0b00000000000000000000000000000111 = .ok .parDecode := by decide
theorem test_decode_crc16 : decode 0b00000000000000000000000000001000 = .ok .crc16 := by decide
theorem test_decode_frameCreate : decode 0b00000000000000000000000000010000 = .ok .frameCreate := by decide
theorem test_decode_frameParse : decode 0b00000000000000000000000000010001 = .ok .frameParse := by decide
theorem test_decode_chunk : decode 0b00000000000000000000000000011000 = .ok .chunk := by decide
theorem test_decode_reassemble : decode 0b00000000000000000000000000011001 = .ok .reassemble := by decide
theorem test_decode_lzCompress : decode 0b00000000000000000000000000100000 = .ok .lzCompress := by decide
theorem test_decode_lzDecompress : decode 0b00000000000000000000000000100001 = .ok .lzDecompress := by decide
theorem test_decode_compressData : decode 0b00000000000000000000000000100010 = .ok .compressData := by decide
theorem test_decode_fecEncode : decode 0b00000000000000000000000000101000 = .ok .fecEncode := by decide
theorem test_decode_fecDecode : decode 0b00000000000000000000000000101001 = .ok .fecDecode := by decide
theorem test_decode_envWrap : decode 0b00000000000000000000000000110000 = .ok .envWrap := by decide
theorem test_decode_envUnwrap : decode 0b00000000000000000000000000110001 = .ok .envUnwrap := by decide

theorem test_decodeTableWord : decodeTableWord 32 0x31 = some .envUnwrap ∧ decodeTableWord 8 0x31 = some .envUnwrap
    ∧ decodeTableWord 32 0x131 = none ∧ decodeTableWord 32 0 = none := by decide

/-- Smoke test of each check of WellFormed.lean: a word that it refuses, by name (R93; 0x00 is unassigned). -/
theorem test_wellFormed_refuses_reserved :
    reservedIsZero 0x00000101 = false ∧ commandWordWellFormed 0x00000101 = false
      ∧ decode 0x00000101 = .error .reservedNotZero ∧ decode 0x80000001 = .error .reservedNotZero := by decide
theorem test_wellFormed_refuses_unassigned :
    opcodeIsAssigned 0x00000009 = false ∧ commandWordWellFormed 0x00000009 = false
      ∧ decode 0x00000009 = .error .unassignedOpcode ∧ decode 0x00000000 = .error .unassignedOpcode
      ∧ decode 0x00000032 = .error .unassignedOpcode := by decide

/-! ### Helpers -/

/-- The bytes given, from an address on. -/
def bytesAt (addr : Nat) (bs : List Nat) : Memory := putBytes [] addr (bs.map (BitVec.ofNat 8))

/-- A core of 256 bytes that is BUSY: SRC at 0 with the given SRC_LEN, DST at 128 with 64 bytes, and the bytes given. -/
def busyWith (len : Nat) (bs : List Nat) : State :=
  { State.powerOn 256 with phase := .busy, srcLen := BitVec.ofNat 32 len, dstAddr := 128, dstCap := 64, mem := bytesAt 0 bs }

/-- What a next state shows, if there is one. -/
def shown {α : Type} (o : Host.Outcome State Fault Refusal) (f : State → α) : Option α :=
  match o with
  | .next t => some (f t)
  | _ => none

/-- The result code and RES0–RES3. -/
def results (t : State) : ResultCode × List Nat :=
  (t.rc, [t.res0.toNat, t.res1.toNat, t.res2.toNat, t.res3.toNat])

/-- The n bytes at DST_ADDR of `busyWith`, where they are initialised. -/
def output (n : Nat) (t : State) : Option (List Nat) := (memBytes t.mem 128 n).map (·.map BitVec.toNat)

/-! ### The spec's examples, one step each -/

/-- R140: pure red is 76245 milli-units. -/
theorem test_luma_red : shown (exec .luma { busyWith 0 [] with arg0 := 0x00FF0000 }) results
    = some (.success, [76245, 0, 0, 0]) := by decide
/-- R140, R94: ARG0[31:24] must be 0. -/
theorem test_luma_badArg : shown (exec .luma { busyWith 0 [] with arg0 := 0x01000000 }) results
    = some (.badArg, [0, 0, 0, 0]) := by decide

/-- R141: samples 100000, 120000, 140000 with margin 50000. -/
theorem test_threshold_mean :
    shown (exec .threshold (busyWith 3 [0, 1, 0x86, 0xA0, 0, 1, 0xD4, 0xC0, 0, 2, 0x22, 0xE0])) results
      = some (.success, [510000, 0, 3, 3]) := by decide
/-- R141: no samples, the fixed default, no margin. -/
theorem test_threshold_default : shown (exec .threshold (busyWith 0 [])) results
    = some (.calibrationInsufficient, [128000, 0, 1, 0]) := by decide

/-- R142: samples 170000, 170001, 0, 255000 against 170000. -/
theorem test_bitDecide_strict :
    shown (exec .bitDecide { busyWith 4 [0, 2, 0x98, 0x10, 0, 2, 0x98, 0x11, 0, 0, 0, 0, 0, 3, 0xE4, 0x18] with
      arg0 := 170000, arg2 := 1 }) (fun t => (results t, output 1 t))
      = some ((.success, [4, 2, 0, 0]), some [0x50]) := by decide
/-- R142: 170000 · 3 > 510000 is false; NUM's high word counts. -/
theorem test_bitDecide_rational :
    shown (exec .bitDecide { busyWith 1 [0, 2, 0x98, 0x10] with arg0 := 510000, arg2 := 3 }) (output 1) = some (some [0])
      ∧ shown (exec .bitDecide { busyWith 1 [255, 255, 255, 255] with arg1 := 1, arg2 := 1 }) (output 1)
        = some (some [0]) := by decide

/-- R150. -/
theorem test_parBit : shown (exec .parBit (busyWith 8 [0x48])) results = some (.success, [0, 2, 0, 0])
    ∧ shown (exec .parBit (busyWith 8 [0x7F])) results = some (.success, [1, 7, 0, 0]) := by decide

/-- R151. -/
theorem test_parCheck : shown (exec .parCheck (busyWith 9 [0x48, 0x00])) results = some (.success, [1, 2, 0, 0])
    ∧ shown (exec .parCheck (busyWith 9 [0x48, 0x80])) results = some (.parityMismatch, [0, 3, 0, 0]) := by decide
/-- R151: a length other than 9 reads no byte. -/
theorem test_parCheck_length : shown (exec .parCheck (busyWith 8 [])) results = some (.parityMismatch, [0, 0, 0, 0]) := by
  decide

/-- R152: "HI". -/
theorem test_parEncode : shown (exec .parEncode (busyWith 2 [0x48, 0x49])) (fun t => (results t, output 3 t))
    = some ((.success, [18, 0, 0, 0]), some [0x48, 0x24, 0xC0]) := by decide

/-- R153. -/
theorem test_parDecode : shown (exec .parDecode (busyWith 18 [0x48, 0x24, 0xC0])) (fun t => (results t, output 2 t))
    = some ((.success, [0, 0xFFFFFFFF, 0, 18]), some [0x48, 0x49]) := by decide
/-- R153: a trailing partial frame is a failure, and the bytes are written all the same. -/
theorem test_parDecode_partial : shown (exec .parDecode (busyWith 20 [0x48, 0x24, 0xC0])) (fun t => (results t, output 2 t))
    = some ((.parityMismatch, [1, 2, 9, 20]), some [0x48, 0x49]) := by decide

/-- R171: "HELLO". -/
theorem test_crc16_hello : shown (exec .crc16 (busyWith 5 [0x48, 0x45, 0x4C, 0x4C, 0x4F])) results
    = some (.success, [0x49D6, 0, 0, 0]) := by decide +kernel
/-- R171 and G1: the empty string, [FF, FF], and "123456789". -/
theorem test_crc16_corners : crc16 [] = 0xFFFF ∧ crc16 [0xFF, 0xFF] = 0x0000
    ∧ crc16 [0x31, 0x32, 0x33, 0x34, 0x35, 0x36, 0x37, 0x38, 0x39] = 0x29B1 := by decide +kernel

/-- The 13 bytes of the packet of R180's example. -/
def helloPacket : List Nat := [0xFF, 0x01, 0x00, 0x00, 0x05, 0x48, 0x45, 0x4C, 0x4C, 0x4F, 0x49, 0xD6, 0x00]

/-- R180: TYPE 1, "HELLO". -/
theorem test_frameCreate_hello :
    shown (exec .frameCreate { busyWith 5 [0x48, 0x45, 0x4C, 0x4C, 0x4F] with arg0 := 1 })
        (fun t => (results t, output 13 t))
      = some ((.success, [104, 0x49D6, 0, 0]), some helloPacket) := by decide +kernel

/-- R185: that packet. -/
theorem test_frameParse_hello : shown (exec .frameParse (busyWith 104 helloPacket)) (fun t => (results t, output 5 t))
    = some ((.success, [1, 0, 5, 0]), some [0x48, 0x45, 0x4C, 0x4C, 0x4F]) := by decide +kernel
/-- R188: a bad checksum is reported before a bad END, with the fields already read, and nothing is written. -/
theorem test_frameParse_checksum :
    shown (exec .frameParse (busyWith 72 [0xFF, 2, 3, 0, 1, 0x48, 0, 0, 1])) (fun t => (results t, output 1 t))
      = some ((.checksumMismatch, [2, 3, 1, 0]), none) := by decide

/-- The first two records of R200's example, "AB" and "CD" of three. -/
def twoRecords : List Nat :=
  [0, 0, 0, 0, 0, 0, 0, 3, 0, 0, 0, 2, 1, 0, 0, 0, 0x41, 0x42] ++ [0, 0, 0, 1, 0, 0, 0, 3, 0, 0, 0, 2, 1, 0, 0, 0, 0x43, 0x44]
/-- Its last record, "E". -/
def lastRecord : List Nat := [0, 0, 0, 2, 0, 0, 0, 3, 0, 0, 0, 1, 1, 0, 0, 0, 0x45]

/-- R200: "ABCDE" in chunks of 2. -/
theorem test_chunk_abcde :
    shown (exec .chunk { busyWith 5 [0x41, 0x42, 0x43, 0x44, 0x45] with arg0 := 1, cfgChunk := 2 })
        (fun t => (results t, output 53 t))
      = some ((.success, [3, 53, 0, 0]), some (twoRecords ++ lastRecord)) := by decide

/-- R202: the records in another order give the data. -/
theorem test_reassemble_order :
    shown (exec .reassemble (busyWith 53 (lastRecord ++ twoRecords))) (fun t => (results t, output 5 t))
      = some ((.success, [5, 1, 3, 3]), some [0x41, 0x42, 0x43, 0x44, 0x45]) := by decide
/-- R202: a record missing. -/
theorem test_reassemble_missing : shown (exec .reassemble (busyWith 36 twoRecords)) results
    = some (.incompleteChunks, [0, 0, 0, 2]) := by decide

/-- R220: "AAAA". -/
theorem test_lzCompress_aaaa :
    shown (exec .lzCompress (busyWith 4 [0x41, 0x41, 0x41, 0x41])) (fun t => (results t, output 4 t))
      = some ((.success, [30, 2, 1, 0]), some [0x20, 0xC0, 0xC0, 0x04]) := by decide

/-- R222: back again. -/
theorem test_lzDecompress_aaaa :
    shown (exec .lzDecompress (busyWith 30 [0x20, 0xC0, 0xC0, 0x04])) (fun t => (results t, output 4 t))
      = some ((.success, [4, 2, 0, 0]), some [0x41, 0x41, 0x41, 0x41]) := by decide
/-- R222: a lone Match(3, 1). -/
theorem test_lzDecompress_malformed : shown (exec .lzDecompress (busyWith 21 [0x81, 0x80, 0x08])) results
    = some (.lzMalformed, [0, 0, 0, 0]) := by decide

/-- R224: "ab" fifty times. -/
theorem test_compressData_ab :
    shown (exec .compressData (busyWith 100 ((List.range 100).map fun i => 0x61 + i % 2))) (fun t => (results t, output 5 t))
      = some ((.success, [1, 39, 0, 39]), some [0x30, 0x98, 0xAC, 0x40, 0x04]) := by decide +kernel
/-- R224: disabled, and too short. -/
theorem test_compressData_plain :
    shown (exec .compressData { busyWith 1 [7] with compEn := false }) (fun t => (results t, output 1 t))
        = some ((.compressionNotBeneficial, [0, 8, 1, 0]), some [7])
      ∧ shown (exec .compressData (busyWith 2 [7, 7])) results = some (.compressionNotBeneficial, [0, 16, 2, 0]) := by
  decide

/-- R241: "HELLO" with two parity shards. -/
theorem test_fecEncode_hello :
    shown (exec .fecEncode (busyWith 5 [0x48, 0x45, 0x4C, 0x4C, 0x4F])) (fun t => (results t, output 7 t))
      = some ((.success, [7, 2, 0, 0]), some [0x48, 0x45, 0x4C, 0x4C, 0x4F, 0x43, 0x40]) := by decide

/-- R242: byte 1 tampered with 0x20. -/
theorem test_fecDecode_tamper :
    shown (exec .fecDecode (busyWith 7 [0x48, 0x65, 0x4C, 0x4C, 0x4F, 0x43, 0x40])) (fun t => (results t, output 5 t))
      = some ((.success, [1, 1, 5, 0]), some [0x48, 0x65, 0x6C, 0x4C, 0x4F]) := by decide
/-- R245: a tampered first parity byte is uncorrectable, and the two patches cancel. R242, by hand (log entry 21): with the
last parity byte tampered instead, 0x41 for 0x40, the first shard agrees and the second patches byte 1 mod 5. -/
theorem test_fecDecode_parityTamper :
    shown (exec .fecDecode (busyWith 7 [0x48, 0x45, 0x4C, 0x4C, 0x4F, 0x42, 0x40])) (fun t => (results t, output 5 t))
        = some ((.fecUncorrectable, [2, 0, 5, 0]), some [0x48, 0x45, 0x4C, 0x4C, 0x4F])
      ∧ shown (exec .fecDecode (busyWith 7 [0x48, 0x45, 0x4C, 0x4C, 0x4F, 0x43, 0x41])) (fun t => (results t, output 5 t))
        = some ((.success, [1, 1, 5, 0]), some [0x48, 0x44, 0x4C, 0x4C, 0x4F]) := by decide

/-- R67: bits 1 and 9 of a stream at 0, each bit 6 of its byte, set to 1 and to 0. -/
theorem test_bitWrite : bitWrite 0 (bytesAt 0 [0x81, 0xFF]) 0 1 true = bytesAt 0 [0xC1, 0xFF]
    ∧ bitWrite 0 (bytesAt 0 [0x81, 0xFF]) 0 9 false = bytesAt 0 [0x81, 0xBF] := by decide

/-- R256: CONFIG, "X". -/
theorem test_envWrap_config : shown (exec .envWrap { busyWith 1 [0x58] with arg0 := 2 }) (fun t => (results t, output 3 t))
    = some ((.success, [3, 0, 0, 0]), some [0x31, 0x30, 0x58]) := by decide

/-- R257. -/
theorem test_envUnwrap_config : shown (exec .envUnwrap (busyWith 3 [0x31, 0x30, 0x58])) (fun t => (results t, output 1 t))
    = some ((.success, [2, 1, 0, 0]), some [0x58]) := by decide
/-- R257: no tag. -/
theorem test_envUnwrap_bad : shown (exec .envUnwrap (busyWith 2 [0x31, 0x32])) results
    = some (.badEnvelope, [0, 0, 0, 0]) := by decide

/-- R97, R276: an uninitialised SRC byte: the fault is recorded, the core stays BUSY and is stuck. -/
theorem test_uninit_halts : shown (exec .crc16 (busyWith 2 [0x48])) (fun t => (t.phase, t.faults, t.stuck, t.done))
    = some (.busy, ⟨false, true, false⟩, true, false) := by decide

/-- R99: DST_OVERFLOW writes nothing. -/
theorem test_dstOverflow : shown (exec .envWrap { busyWith 1 [0x58] with dstCap := 2 }) (fun t => (results t, output 1 t))
    = some ((.dstOverflow, [0, 0, 0, 0]), none) := by decide

/-! ### The machine around the operations -/

/-- R90, R97: a CMD write, then the core's step, then the ACK of R121. -/
theorem test_step_cmd :
    shown (step { State.powerOn 16 with inputs := [.regWrite 0x0C 4 8] }) (fun t => (t.phase, t.cmd.toNat, t.inputs))
        = some (.busy, 8, [])
      ∧ shown (step { State.powerOn 16 with phase := .busy, cmd := 8 }) (fun t => (t.phase, results t, statusWord t))
        = some (.idle, (.success, [0xFFFF, 0, 0, 0]), 0x00000006)
      ∧ shown (step { State.powerOn 16 with done := true, irqEn := true, inputs := [.regWrite 0x08 4 2] }) irq
        = some false := by decide

/-- The interface: the very next step performs the word. -/
theorem test_withFetchWord :
    shown (step (State.reset.withFetchWord 32 0x01)) results = some (.success, [0, 0, 0, 0])
      ∧ shown (step (State.reset.withFetchWord 32 0x09)) results = some (.illegalOpcode, [0, 0, 0, 0])
      ∧ shown (step ({ State.reset with inputs := [.bufRead 0] }.withFetchWord 32 0x08)) (fun t => (t.res0.toNat, t.inputs))
        = some (0xFFFF, [.bufRead 0]) := by decide

/-- R42, R77, R22: a dropped write, a race and a bad access. -/
theorem test_host_while_busy :
    shown (step { busyWith 1 [7] with cmd := 8, inputs := [.regWrite 0x10 4 5] }) (fun t => (t.werr, t.srcAddr.toNat))
        = some (true, 0)
      ∧ shown (step { busyWith 1 [7] with cmd := 8, inputs := [.bufRead 0] }) (fun t => (t.faults.hostRace, t.readData))
        = some (true, none)
      ∧ shown (step { busyWith 1 [7, 9] with cmd := 8, inputs := [.bufRead 1] }) (fun t => (t.faults.hostRace, t.readData))
        = some (false, some 9)
      ∧ shown (step { State.reset with inputs := [.regRead 0x80 4] }) (fun t => t.faults.busError) = some true := by decide

/-- R302, R303. -/
theorem test_resets :
    shown (step { busyWith 1 [7] with cfgChunk := 9, inputs := [.resetInput] })
        (fun t => (t.phase, t.cfgChunk.toNat, t.mem)) = some (.idle, 0x100, [])
      ∧ shown (step { State.powerOn 8 with irqEn := true, cfgChunk := 9, mem := [(0, 7)], inputs := [.regWrite 0x04 4 3] })
        (fun t => (t.irqEn, t.cfgChunk.toNat, t.mem)) = some (false, 0x100, [(0, 7)]) := by decide

end Sys2Proof.Tests
end

