-- ==== Sys2Proof/Tests/Witnesses.lean ====
section
/-! SUPPORT. Witnesses: for every statement with hypotheses, states and operands that meet them, each clause at a boundary
value of its range. -/

namespace Sys2Proof.Tests

open Sys2Proof Sys2Proof.Machine

-- One thread at a time: the kernel evaluations below would otherwise reserve memory for several.
set_option Elab.async false

/-- The next state of an operation, which every operation has. -/
def after (i : Instr) (s : State) : State :=
  match exec i s with
  | .next t => t
  | _ => s

theorem exec_after (i : Instr) (s : State) : exec i s = .next (after i s) := by
  rcases finish_cases s (prechecked i s fun _ => performOf i s) with ⟨c, -, h⟩ | ⟨f, -, h⟩ <;>
    simp [after, exec_eq, h]

/-- A BUSY core of 256 bytes, none initialised, with these operands. -/
def edge (src len dst cap : Nat) : State :=
  { State.powerOn 256 with
    phase := .busy, srcAddr := BitVec.ofNat 32 src, srcLen := BitVec.ofNat 32 len, dstAddr := BitVec.ofNat 32 dst
    dstCap := BitVec.ofNat 32 cap }

/-- The next operation over the same buffer RAM: SRC at the output of `busyWith`, DST at 0. -/
def chained (t : State) (len : Word) : State := { t with srcAddr := 128, srcLen := len, dstAddr := 0, dstCap := 64 }

theorem witness_DecodeAndEncodeAgree :
    decode 0x00000031 = .ok .envUnwrap ∧ decode 0x00000100 = .error .reservedNotZero
      ∧ (0x00000100 : Word).extractLsb' 8 24 ≠ 0 ∧ (0x00000000 : Word).extractLsb' 0 8 ∉ assignedOpcodes := by decide

theorem witness_OpcodeMapWords : ∀ op ∈ ([0x00, 0x09, 0x0F, 0x12, 0x17, 0x1A, 0x1F, 0x23, 0x27, 0x2A, 0x2F, 0x32, 0xFF]
    : List (BitVec 8)), op ∉ assignedOpcodes := by decide

theorem witness_StepRunsDecodedCommand :
    let s : State := { edge 0 0 0 0 with cmd := 8 }
    s.phase = .busy ∧ s.stuck = false ∧ decode s.cmd = .ok .crc16 ∧ s.inputs = []
      ∧ ({ s with inputs := [.coreTurn] } : State).inputs = .coreTurn :: [] := by decide

theorem witness_IllegalCommandWordCompletes :
    let s : State := { edge 0 0 0 0 with cmd := 0x00000101 }
    let u : State := { edge 0 0 0 0 with cmd := 0x00000009 }
    s.phase = .busy ∧ s.stuck = false ∧ s.inputs = [] ∧ s.cmd.extractLsb' 8 24 ≠ 0
      ∧ u.phase = .busy ∧ u.stuck = false ∧ u.inputs = [] ∧ u.cmd.extractLsb' 0 8 ∉ assignedOpcodes
      ∧ ({ s with inputs := [.coreTurn, .bufRead 0] } : State).inputs = .coreTurn :: [.bufRead 0] := by decide

/-- The clauses of `ReaderChecks` and `WriterChecks` where SRC_LEN counts bytes: SRC ends at the last byte or one past it,
DST likewise, and the ranges touch or share one byte. -/
theorem witness_checks_bytes :
    let n (s : State) := s.srcLen.toNat
    (SrcFits (edge 252 4 248 4) (n (edge 252 4 248 4)) ∧ DstFits (edge 252 4 248 4)
        ∧ RangesApart (edge 252 4 248 4) (n (edge 252 4 248 4)))
      ∧ (SrcFits (edge 244 4 248 8) (n (edge 244 4 248 8)) ∧ DstFits (edge 244 4 248 8)
        ∧ RangesApart (edge 244 4 248 8) (n (edge 244 4 248 8)))
      ∧ ¬ SrcFits (edge 253 4 0 0) (n (edge 253 4 0 0))
      ∧ (SrcFits (edge 0 4 249 8) (n (edge 0 4 249 8)) ∧ ¬ DstFits (edge 0 4 249 8))
      ∧ (SrcFits (edge 0 4 3 8) (n (edge 0 4 3 8)) ∧ DstFits (edge 0 4 3 8)
        ∧ ¬ RangesApart (edge 0 4 3 8) (n (edge 0 4 3 8))) := by decide

/-- The same where SRC_LEN counts bits: 25 bits are 4 bytes. -/
theorem witness_checks_bits :
    let n (s : State) := (s.srcLen.toNat + 7) / 8
    (SrcFits (edge 252 25 248 4) (n (edge 252 25 248 4)) ∧ DstFits (edge 252 25 248 4)
        ∧ RangesApart (edge 252 25 248 4) (n (edge 252 25 248 4)))
      ∧ ¬ SrcFits (edge 253 25 0 0) (n (edge 253 25 0 0))
      ∧ (SrcFits (edge 0 25 249 8) (n (edge 0 25 249 8)) ∧ ¬ DstFits (edge 0 25 249 8))
      ∧ (SrcFits (edge 0 25 3 8) (n (edge 0 25 3 8)) ∧ DstFits (edge 0 25 3 8)
        ∧ ¬ RangesApart (edge 0 25 3 8) (n (edge 0 25 3 8))) := by decide

/-- The same where SRC_LEN counts samples. -/
theorem witness_checks_samples :
    let n (s : State) := 4 * s.srcLen.toNat
    (SrcFits (edge 252 1 248 4) (n (edge 252 1 248 4)) ∧ DstFits (edge 252 1 248 4)
        ∧ RangesApart (edge 252 1 248 4) (n (edge 252 1 248 4)))
      ∧ ¬ SrcFits (edge 253 1 0 0) (n (edge 253 1 0 0))
      ∧ (SrcFits (edge 0 1 249 8) (n (edge 0 1 249 8)) ∧ ¬ DstFits (edge 0 1 249 8))
      ∧ (SrcFits (edge 0 1 3 8) (n (edge 0 1 3 8)) ∧ DstFits (edge 0 1 3 8)
        ∧ ¬ RangesApart (edge 0 1 3 8) (n (edge 0 1 3 8))) := by decide

/-- `OnSrcBytes` of PAR_ENCODE, CRC16, CHUNK and the others that count bytes: the last byte uninitialised, or all read. -/
theorem witness_srcBytes : SrcUninit (busyWith 3 [1, 2]) (busyWith 3 [1, 2]).srcLen.toNat
    ∧ SrcBytesAre (busyWith 2 [1, 2]) (busyWith 2 [1, 2]).srcLen.toNat [1, 2]
    ∧ SrcBytesAre (busyWith 0 []) (busyWith 0 []).srcLen.toNat [] := by decide

/-- `OnSrcBits` of PAR_BIT and the others that count bits. -/
theorem witness_srcBits : SrcUninit (busyWith 9 [0x80]) (((busyWith 9 [0x80]).srcLen.toNat + 7) / 8)
    ∧ SrcBitsAre (busyWith 3 [0x80]) (busyWith 3 [0x80]).srcLen.toNat [true, false, false]
    ∧ SrcBitsAre (busyWith 0 []) (busyWith 0 []).srcLen.toNat [] := by decide

theorem witness_LumaResult : (0x01000000 : Word).extractLsb' 24 8 ≠ 0 ∧ (0x00FFFFFF : Word).extractLsb' 24 8 = 0 := by decide

theorem witness_ThresholdResult : (busyWith 0 []).srcLen.toNat = 0 ∧ (busyWith 1 [0, 1, 0x86]).srcLen.toNat ≠ 0
    ∧ SrcUninit (busyWith 1 [0, 1, 0x86]) (4 * (busyWith 1 [0, 1, 0x86]).srcLen.toNat)
    ∧ SrcSamplesAre (busyWith 1 [0, 1, 0x86, 0xA0]) (busyWith 1 [0, 1, 0x86, 0xA0]).srcLen.toNat [100000] := by decide

theorem witness_BitDecideResult : (busyWith 0 []).arg2 = 0
    ∧ (let s : State := { busyWith 1 [0, 1, 0x86, 0xA0] with arg2 := 1, dstCap := 1 }
      s.arg2 ≠ 0 ∧ SrcSamplesAre s s.srcLen.toNat [100000] ∧ (packBits [true]).length ≤ s.dstCap.toNat
        ∧ ({ s with dstCap := 0 } : State).dstCap.toNat < (packBits [true]).length) := by decide

theorem witness_ParityCheckResult : (busyWith 8 []).srcLen ≠ 9 ∧ (busyWith 10 []).srcLen ≠ 9 ∧ (busyWith 9 [0x48, 0]).srcLen = 9
    ∧ SrcUninit (busyWith 9 [0x48]) ((9 + 7) / 8)
    ∧ SrcBitsAre (busyWith 9 [0x48, 0x00]) 9 [false, true, false, false, true, false, false, false, false]
    ∧ SrcBitsAre (busyWith 9 [0x48, 0x80]) 9 [false, true, false, false, true, false, false, false, true] := by decide

theorem witness_ParityEncodeResult : SrcBytesAre (busyWith 2 [0x48, 0x49]) 2 [0x48, 0x49]
    ∧ (packBits (byteFrames [0x48, 0x49])).length = 3 := by decide

/-- One good frame and one partial: nothing fails but the partial frame; and one bad frame. -/
theorem witness_ParityDecodeResult :
    (∃ (b : List Bool) (bad : Nat → Bool) (first : Word), SrcBitsAre (busyWith 10 [0x48, 0x00]) 10 b ∧ 10 / 9 = 1 ∧ 10 % 9 = 1
        ∧ (∀ i, bad i = decide ((slice b (9 * i) 9).count true % 2 = 1)) ∧ (∀ i, i < 1 → bad i = false) ∧ first = 1)
      ∧ ∃ (b : List Bool) (bad : Nat → Bool) (first : Word), SrcBitsAre (busyWith 9 [0x48, 0x80]) 9 b ∧ 9 / 9 = 1 ∧ 9 % 9 = 0
        ∧ (∀ i, bad i = decide ((slice b (9 * i) 9).count true % 2 = 1)) ∧ bad 0 = true ∧ first = 0 := by
  refine ⟨⟨[false, true, false, false, true, false, false, false, false, false], _, 1, by decide, rfl, rfl, fun i => rfl,
    by decide, rfl⟩, ⟨[false, true, false, false, true, false, false, false, true], _, 0, by decide, rfl, rfl, fun i => rfl,
    by decide, rfl⟩⟩

theorem witness_CrcDetectsEverySingleBitFlip : (0 < ([0x48] : List Byte).length ∧ 7 < 8)
    ∧ ([0x48, 0x45, 0x4C, 0x4C, 0x4F] : List Byte).length = 5 := by decide

theorem witness_FrameCreateResult :
    (0x00000100 : Word).extractLsb' 8 24 ≠ 0 ∧ (0x000000FF : Word).extractLsb' 8 24 = 0
      ∧ 65535 < (edge 0 65536 0 0).srcLen.toNat ∧ (edge 0 65535 0 0).srcLen.toNat ≤ 65535
      ∧ SrcFits { edge 0 65536 0 0 with bufBytes := 65536 } 65536 := by decide

theorem witness_FrameCreateResult_reads :
    let s : State := { busyWith 1 [0x48] with dstCap := 9 }
    s.arg0.extractLsb' 8 24 = 0 ∧ s.arg1.extractLsb' 8 24 = 0 ∧ s.srcLen.toNat ≤ 65535 ∧ SrcBytesAre s s.srcLen.toNat [0x48]
      ∧ (packBits (packet 0 0 [0x48])).length = s.dstCap.toNat
      ∧ ({ s with dstCap := 8 } : State).dstCap.toNat < (packBits (packet 0 0 [0x48])).length := by decide +kernel

/-- Seven 1 bits hold no START; one more is a START, with 32 bits of header still to come. -/
theorem witness_FrameParseResult_hunt :
    (¬ ∃ st, IsFirstStart (List.replicate 7 true) st) ∧ IsFirstStart (false :: List.replicate 8 true) 1 := by
  refine ⟨fun ⟨st, h⟩ => ?_, (huntStart_eq_some_iff _ _).1 (by decide)⟩
  have h' := (huntStart_eq_some_iff _ _).2 h
  have hn : huntStart (List.replicate 7 true) = none := by decide
  rw [hn] at h'
  cases h'

/-- The clauses after HUNT, on the packet of one byte cut short or changed: START at 0, LENGTH 1, 72 bits. -/
theorem witness_FrameParseResult_body :
    let b := packet 0 0 [0x48]
    IsFirstStart b 0 ∧ (b.take 39).length < 0 + 40 ∧ 0 + 40 ≤ (b.take 40).length
      ∧ valMSB (slice b 24 16) = 1 ∧ (0x0000 : BitVec 16).toNat < 1 ∧ 1 ≤ (0x0001 : BitVec 16).toNat
      ∧ (b.take 71).length < 0 + 64 + 8 * 1 ∧ 0 + 64 + 8 * 1 ≤ b.length
      ∧ valMSB (slice b 48 16) = (crc16 [0x48]).toNat ∧ valMSB (slice b 64 8) = 0
      ∧ valMSB (slice (packet 0 0 [0x49]) 48 16) ≠ (crc16 [0x48]).toNat
      ∧ valMSB (slice (b.set 71 true) 64 8) ≠ 0 := by
  refine ⟨(huntStart_eq_some_iff _ _).1 (by decide +kernel), ?_⟩
  decide +kernel

/-- A stream of those bits in buffer RAM. -/
theorem witness_FrameParseResult_stream : SrcBitsAre (busyWith 72 [0xFF, 0, 0, 0, 1, 0x48, 0x86, 0xAB, 0]) 72
    (bytesBits [0xFF, 0, 0, 0, 1, 0x48, 0x86, 0xAB, 0]) := by decide +kernel

theorem witness_FrameRoundTrip :
    let s : State := { busyWith 5 [0x48, 0x45, 0x4C, 0x4C, 0x4F] with arg0 := 1 }
    let t := after .frameCreate s
    let u := chained t t.res0
    SrcBytesAre s s.srcLen.toNat [0x48, 0x45, 0x4C, 0x4C, 0x4F] ∧ exec .frameCreate s = .next t ∧ t.rc = .success
      ∧ u.mem = t.mem ∧ u.srcAddr = s.dstAddr ∧ u.srcLen = t.res0 ∧ 5 ≤ u.maxLen.toNat ∧ 5 ≤ u.dstCap.toNat
      ∧ SrcFits u (5 + 8) ∧ DstFits u ∧ RangesApart u (5 + 8) :=
  ⟨by decide, exec_after _ _, by decide +kernel, rfl, rfl, rfl, by decide +kernel⟩

theorem witness_ChunkResult : (0x00000100 : Word).extractLsb' 8 24 ≠ 0 ∧ (edge 0 0 0 0).arg0.extractLsb' 8 24 = 0
    ∧ (edge 0 0 0 0).cfgChunk ≠ 0 ∧ ({ edge 0 0 0 0 with cfgChunk := 0 } : State).cfgChunk = 0
    ∧ (recordsBytes (chunksOf 2 1 [0x41, 0x42, 0x43, 0x44, 0x45])).length = 53 := by decide

/-- Fifteen bytes are no whole record; sixteen can be one; an empty list and a list with a record missing are incomplete. -/
theorem witness_ReassembleResult :
    (¬ ∃ rs : List (ChunkRecord × Byte × Byte × Byte), (∀ r ∈ rs, RecordFits r)
        ∧ List.replicate 15 (0 : Byte) = rs.flatMap receivedRecord)
      ∧ (let rs : List (ChunkRecord × Byte × Byte × Byte) := [(⟨0, 1, 5, []⟩, 1, 2, 3)]
        (∀ r ∈ rs, RecordFits r) ∧ (rs.flatMap receivedRecord).length = 16 ∧ rs.Perm rs ∧ (∀ r ∈ rs, r.1.total = rs.length)
          ∧ rs.map (fun r => r.1.seq) = List.range rs.length)
      ∧ ¬ ∀ r ∈ ([(⟨0, 2, 5, []⟩, 0, 0, 0)] : List (ChunkRecord × Byte × Byte × Byte)), r.1.total = 1 := by
  refine ⟨?_, ⟨by unfold RecordFits; decide, by decide, List.Perm.refl _, by decide, by decide⟩, by decide⟩
  rintro ⟨rs, -, h⟩
  have hl := congrArg List.length h
  cases rs with
  | nil => simp at hl
  | cons r rs => simp [receivedRecord] at hl; omega

theorem witness_ChunkRoundTripAndIncompleteness :
    let s : State := { busyWith 3 [0x41, 0x42, 0x43] with arg0 := 1, cfgChunk := 2 }
    let t := after .chunk s
    let u := chained t t.res1
    (SrcBytesAre s s.srcLen.toNat [0x41, 0x42, 0x43] ∧ exec .chunk s = .next t ∧ t.rc = .success ∧ u.mem = t.mem
        ∧ u.srcAddr = s.dstAddr ∧ u.srcLen = t.res1 ∧ 3 ≤ u.dstCap.toNat ∧ SrcFits u t.res1.toNat ∧ DstFits u
        ∧ RangesApart u t.res1.toNat)
      ∧ (let v := busyWith 17 [0, 0, 0, 1, 0, 0, 0, 2, 0, 0, 0, 1, 1, 0, 0, 0, 0x43]
        0 < 2 ∧ 0 < chunkCount 3 2 ∧ SrcBytesAre v v.srcLen.toNat (recordsBytes ((chunksOf 2 1 [0x41, 0x42, 0x43]).eraseIdx 0))
          ∧ SrcFits v v.srcLen.toNat ∧ DstFits v ∧ RangesApart v v.srcLen.toNat) :=
  ⟨⟨by decide, exec_after _ _, by decide +kernel, rfl, rfl, rfl, by decide +kernel⟩, by decide +kernel⟩

theorem witness_LzSearchFindsTheFarthestLongestMatch :
    2 < ([0x41, 0x41, 0x41, 0x41] : List Byte).length ∧ bestMatch [0x41, 0x41, 0x41, 0x41] 2 = (2, 2)
      ∧ bestMatch [0x41, 0x42] 1 = (0, 0)
      ∧ (0 < 2 ∧ 2 ≤ 0 + 4095) ∧ AgreesFor [0x41, 0x41, 0x41, 0x41] 2 0 2 := by
  refine ⟨by decide, by decide, by decide, by decide, ?_⟩
  unfold AgreesFor
  decide

/-- The eight shifts of the byte 0x80 into a fresh register, and one clause of each kind of shift. -/
theorem witness_Crc16Result : 2 ^ 15 ≤ (0xFFFF : BitVec 16).toNat ∧ ¬ 2 ^ 15 ≤ (0x7FFF : BitVec 16).toNat
    ∧ ∃ c : Nat → BitVec 16, c 0 = crc16 [] ^^^ BitVec.ofNat 16 ((0x80 : Byte).toNat * 2 ^ 8)
      ∧ ∀ k, k < 8 → c (k + 1) = if 2 ^ 15 ≤ (c k).toNat then BitVec.ofNat 16 ((c k).toNat * 2 % 2 ^ 16) ^^^ 0x1021
        else BitVec.ofNat 16 ((c k).toNat * 2 % 2 ^ 16) :=
  ⟨by decide, by decide, fun k => crcShifts k 0x7FFF, by decide, by decide⟩

theorem witness_LzDecompressResult : lzReplay [false] = .malformed 0 ∧ lzReplay [] = .done [] 0
    ∧ lzReplay (lzSer [.literal 0x41]) = .done [0x41] 1 ∧ SrcBitsAre (busyWith 1 [0]) 1 [false] := by decide

theorem witness_LzRoundTrip :
    let s : State := busyWith 4 [0x41, 0x41, 0x41, 0x41]
    let t := after .lzCompress s
    let u := chained t t.res0
    BufferSizeLegal s ∧ SrcBytesAre s s.srcLen.toNat [0x41, 0x41, 0x41, 0x41] ∧ exec .lzCompress s = .next t
      ∧ t.rc = .success ∧ u.mem = t.mem ∧ u.srcAddr = s.dstAddr ∧ u.srcLen = t.res0 ∧ 4 ≤ u.dstCap.toNat
      ∧ SrcFits u ((t.res0.toNat + 7) / 8) ∧ DstFits u ∧ RangesApart u ((t.res0.toNat + 7) / 8) :=
  ⟨by unfold BufferSizeLegal; decide, by decide, exec_after _ _, by decide +kernel, rfl, rfl, rfl, by decide +kernel⟩

/-- Disabled; 99 bytes; 100 bytes that compress; 100 bytes that do not (R224's examples). -/
theorem witness_CompressDataResult :
    ({ busyWith 1 [7] with compEn := false } : State).compEn = false ∧ (busyWith 99 []).compEn = true
      ∧ (busyWith 99 []).srcLen.toNat < 100 ∧ 100 ≤ (busyWith 100 []).srcLen.toNat
      ∧ SrcBytesAre (busyWith 100 ((List.range 100).map fun i => 0x61 + i % 2)) 100
        ((List.range 100).map fun i => BitVec.ofNat 8 (0x61 + i % 2))
      ∧ (lzSer (lzTokens ((List.range 100).map fun i => BitVec.ofNat 8 (0x61 + i % 2)))).length < 8 * 100
      ∧ 8 * 100 ≤ (lzSer (lzTokens ((List.range 100).map fun i => BitVec.ofNat 8 i))).length := by decide +kernel

theorem witness_CompressDataNeverExpands :
    let s : State := busyWith 2 [7, 7]
    let t := after .compressData s
    BufferSizeLegal s ∧ exec .compressData s = .next t ∧ ¬ HaltedAt s t ∧ t.valid = true ∧ t.res0 = 0 :=
  ⟨by unfold BufferSizeLegal; decide, exec_after _ _, by unfold HaltedAt; decide, by decide, by decide⟩

/-- P = 2: a block of 1 byte is too short; of 2 bytes it has no data, and its two shards count one error or two. -/
theorem witness_FecDecodeResult :
    (busyWith 1 [1]).srcLen.toNat < (busyWith 1 [1]).parityShards.toNat
      ∧ (let s := busyWith 2 [1, 0]
        s.parityShards.toNat ≤ s.srcLen.toNat ∧ SrcBytesAre s s.srcLen.toNat [1, 0])
      ∧ (∃ (ds : Nat → List Byte) (es : Nat → Nat) (delta : Nat → Byte), ds 0 = [] ∧ es 0 = 0
        ∧ (∀ j, j < 2 → delta j = foldOf (ds j) j ^^^ ([1, 0] : List Byte).getD j 0)
        ∧ (∀ j, j < 2 → delta j = 0 → ds (j + 1) = ds j ∧ es (j + 1) = es j)
        ∧ (∀ j, j < 2 → delta j ≠ 0 → es (j + 1) = es j + 1 ∧ ds (j + 1) = ds j) ∧ 2 * es 2 ≤ 2)
      ∧ ∃ (ds : Nat → List Byte) (es : Nat → Nat) (delta : Nat → Byte), ds 0 = [] ∧ es 0 = 0
        ∧ (∀ j, j < 2 → delta j = foldOf (ds j) j ^^^ ([1, 1] : List Byte).getD j 0)
        ∧ (∀ j, j < 2 → delta j = 0 → ds (j + 1) = ds j ∧ es (j + 1) = es j)
        ∧ (∀ j, j < 2 → delta j ≠ 0 → es (j + 1) = es j + 1 ∧ ds (j + 1) = ds j) ∧ 2 < 2 * es 2 := by
  refine ⟨by decide, by decide, ⟨fun _ => [], fun j => min j 1, fun j => ([1, 0] : List Byte).getD j 0, by decide⟩,
    ⟨fun _ => [], fun j => j, fun j => ([1, 1] : List Byte).getD j 0, by decide⟩⟩

/-- FEC_ENCODE of the byte 5 with P = 2, then the block as it stands, and with its data byte tampered. -/
theorem witness_FecUntamperedAndOneTamper :
    let s : State := busyWith 1 [5]
    let t := after .fecEncode s
    let u := chained t t.res0
    let v : State := { u with mem := writeByte t.mem 128 4 }
    2 ≤ 255 ∧ SrcBytesAre s s.srcLen.toNat [5] ∧ exec .fecEncode s = .next t ∧ t.rc = .success
      ∧ u.parityShards = s.parityShards ∧ u.srcAddr = s.dstAddr ∧ u.srcLen = t.res0 ∧ u.mem = t.mem
      ∧ 2 ≤ s.parityShards.toNat ∧ 0 < ([5] : List Byte).length ∧ (1 : Byte) ≠ 0
      ∧ (∀ a, readByte v.mem a = if a = s.dstAddr.toNat + 0 then some (([5] : List Byte).getD 0 0 ^^^ 1) else readByte t.mem a)
      ∧ 1 ≤ u.dstCap.toNat ∧ SrcFits u t.res0.toNat ∧ DstFits u ∧ RangesApart u t.res0.toNat := by
  refine ⟨by decide, by decide, exec_after _ _, by decide, rfl, rfl, rfl, rfl, by decide, by decide, by decide, fun a => ?_,
    by decide⟩
  refine (readByte_writeByte _ _ _ _).trans ?_
  by_cases h : a = 128
  · subst h; rfl
  · rw [if_neg (Ne.symm h)]
    exact (if_neg h).symm

theorem witness_EnvWrapResult : (0x00000004 : Word).extractLsb' 2 30 ≠ 0 ∧ (0x00000003 : Word).extractLsb' 2 30 = 0
    ∧ SrcBytesAre (busyWith 1 [0x58]) (busyWith 1 [0x58]).srcLen.toNat [0x58] := by decide

theorem witness_EnvUnwrapResult : (busyWith 1 [0x31]).srcLen.toNat < 2 ∧ 2 ≤ (busyWith 2 [0x31, 0x2F]).srcLen.toNat
    ∧ SrcBytesAre (busyWith 2 [0x31, 0x2F]) 2 [0x31, 0x2F] ∧ SrcBytesAre (busyWith 2 [0x31, 0x30]) 2 [0x31, 0x30]
    ∧ ¬ (((0x31 : Byte) = 0x30 ∨ (0x31 : Byte) = 0x31) ∧ ((0x2F : Byte) = 0x30 ∨ (0x2F : Byte) = 0x31)) := by decide

theorem witness_EnvelopeRoundTrip :
    let s : State := { busyWith 1 [0x58] with arg0 := 2 }
    let t := after .envWrap s
    let u := chained t t.res0
    SrcBytesAre s s.srcLen.toNat [0x58] ∧ exec .envWrap s = .next t ∧ t.rc = .success ∧ u.mem = t.mem
      ∧ u.srcAddr = s.dstAddr ∧ u.srcLen = t.res0 ∧ 1 ≤ u.dstCap.toNat ∧ SrcFits u (1 + 2) ∧ DstFits u
      ∧ RangesApart u (1 + 2) :=
  ⟨by decide, exec_after _ _, by decide, rfl, rfl, rfl, by decide⟩

/-- The statements about every operation: one next state that writes its first and last output byte. -/
theorem witness_everyOperation :
    let s : State := busyWith 1 [0x58]
    let t := after .envWrap s
    exec .envWrap s = .next t ∧ readByte t.mem 128 ≠ readByte s.mem 128 ∧ readByte t.mem 130 ≠ readByte s.mem 130
      ∧ ¬ HaltedAt s t :=
  ⟨exec_after _ _, by decide, by decide, by unfold HaltedAt; decide⟩

theorem witness_ResultCodeNumbers : ResultCode.success.code = 0x00 ∧ ResultCode.dstOverflow.code = 0x24 := by decide

/-- Two states that agree on the inputs of an operation and differ elsewhere. -/
theorem witness_OutcomeDependsOnlyOnItsInputs :
    let s : State := busyWith 1 [0x58]
    let s' : State := { busyWith 1 [0x58, 0x59] with cfgBitdur := 7, dataShards := 9, res0 := 5, arg3 := 3 }
    s'.bufBytes = s.bufBytes ∧ s'.srcAddr = s.srcAddr ∧ s'.srcLen = s.srcLen ∧ s'.dstAddr = s.dstAddr
      ∧ s'.dstCap = s.dstCap ∧ s'.arg0 = s.arg0 ∧ s'.arg1 = s.arg1 ∧ s'.arg2 = s.arg2 ∧ s'.parityShards = s.parityShards
      ∧ s'.cfgChunk = s.cfgChunk ∧ s'.compEn = s.compEn ∧ s'.cfgMargin = s.cfgMargin ∧ s'.maxLen = s.maxLen
      ∧ (∀ k, k < srcBytes .envWrap s → readByte s'.mem (s.srcAddr.toNat + k) = readByte s.mem (s.srcAddr.toNat + k))
      ∧ s' ≠ s := by decide

theorem witness_MemReadAndMemWriteAreBigEndian :
    (∀ k, k < 2 → readByte (bytesAt 4 [1, 2]) (4 + k) = ([1, 2] : List Byte)[k]?)
      ∧ (∃ k, k < 3 ∧ readByte (bytesAt 4 [1, 2]) (4 + k) = none) ∧ 0xFFFF < 2 ^ (8 * 2) ∧ (4 ≤ 5 ∧ 5 < 4 + 2)
      ∧ (3 < 4 ∨ 4 + 2 ≤ 3) ∧ (6 < 4 ∨ 4 + 2 ≤ 6) := by decide

theorem witness_BitsOutLayout : 8 < (List.replicate 9 true).length
    ∧ ((List.replicate 9 true).length ≤ 15 ∧ 15 < 8 * (((List.replicate 9 true).length + 7) / 8)) ∧ (3 < 4 ∨ 4 + 2 ≤ 3)
    ∧ (6 < 4 ∨ 4 + 2 ≤ 6)
    ∧ ((6 : Nat) ≠ 7 ∧ (readByte (bytesAt 4 [1]) (4 + 6 / 8)).isSome = true) ∧ (3 ≠ 4 + 7 / 8 ∧ 5 ≠ 4 + 7 / 8) := by decide

/-- Accesses that R22 refuses: past the space, misaligned, narrow, wide. -/
theorem witness_BadRegisterAccessIsBusError :
    (∀ a ∈ ([(0x80, 4), (0x7E, 4), (0x02, 4), (0x00, 2), (0x00, 8)] : List (Nat × Nat)),
        ¬ (a.2 = 4 ∧ a.1 % 4 = 0 ∧ a.1 ≤ 0x7C))
      ∧ ({ edge 0 0 0 0 with inputs := [.regRead 0x80 4] } : State).inputs = .regRead 0x80 4 :: [] := by decide

/-- A pending event of each kind, with the phase each statement of the host's port asks for. -/
theorem witness_host_events (e : Input) :
    (let s : State := { State.powerOn 256 with inputs := [e] };
      s.inputs = e :: [] ∧ s.phase = .idle ∧ s.bufBytes ≤ 256 ∧ 255 < s.bufBytes ∧ readByte s.mem 255 = none)
      ∧ (let s : State := { busyWith 1 [7] with cmd := 0x30, inputs := [e] };
        s.inputs = e :: [] ∧ s.phase = .busy ∧ decode s.cmd = .ok .envWrap ∧ readByte s.mem 0 = some 7) :=
  ⟨⟨rfl, rfl, Nat.le_refl 256, Nat.lt_succ_self 255, rfl⟩, rfl, rfl, test_decode_envWrap, rfl⟩

/-- The ranges of HostRace at their ends: SRC is [0, 1), DST is [128, 192); BUF_BYTES and the byte before it; and an illegal
command word, which has no ranges. -/
theorem witness_HostRace :
    let s : State := { busyWith 1 [7, 8] with cmd := 0x30 }
    InOperationRanges .envWrap s 0 ∧ ¬ InOperationRanges .envWrap s 1 ∧ readByte s.mem 1 = some 8
      ∧ ¬ InOperationRanges .envWrap s 127 ∧ readByte s.mem 127 = none ∧ InOperationRanges .envWrap s 128
      ∧ InOperationRanges .envWrap s 191 ∧ ¬ InOperationRanges .envWrap s 192 ∧ 192 < s.bufBytes
      ∧ s.bufBytes ≤ 256 ∧ 255 < s.bufBytes
      ∧ (∀ a i, decode ({ s with cmd := 0x09 } : State).cmd = .ok i → ¬ InOperationRanges i { s with cmd := 0x09 } a) := by
  have h : decode 0x09 = .error .unassignedOpcode := test_wellFormed_refuses_unassigned.2.2.1
  refine ⟨by decide, by decide, by decide, by decide, by decide, by decide, by decide, by decide, by decide, by decide,
    by decide, fun a i hi => ?_⟩
  rw [show decode _ = _ from h] at hi
  cases hi

/-- The bits of the CTRL and STATUS writes. -/
theorem witness_ctrl_and_status_writes : (0x00000001 : Word).getLsbD 1 = false ∧ (0x00000002 : Word).getLsbD 1 = true
    ∧ (0x00000008 : Word).getLsbD 3 = true := by decide

/-- A BUSY state, a stuck one and the power-on state meet the invariants. -/
theorem witness_invariants :
    (let s : State := busyWith 1 [7];
      StatusConsistent s ∧ StuckConsistent s ∧ MemoryConsistent s)
      ∧ (let s : State := { busyWith 1 [] with stuck := true, faults := ⟨false, true, false⟩ };
        StatusConsistent s ∧ StuckConsistent s ∧ s.phase = .busy ∧ s.stuck = true ∧ ¬ IsReset (.regWrite 0x04 4 1)) := by
  unfold StatusConsistent StuckConsistent MemoryConsistent IsReset
  decide

/-- One step of each kind that the whole-machine rules speak of. -/
theorem witness_steps :
    shown (step { busyWith 1 [7] with cmd := 8 }) (fun t => (t.phase, t.done, t.rc)) = some (.idle, true, .success)
      ∧ shown (step { busyWith 1 [] with cmd := 8 }) (fun t => t.stuck) = some true
      ∧ (∀ e rest, ({ busyWith 1 [7] with cmd := 8 } : State).inputs = e :: rest → ¬ IsReset e)
      ∧ shown (step { State.powerOn 8 with inputs := [.regWrite 0x0C 4 0] }) (fun t => t.phase) = some .busy
      ∧ CoreHasTheTurn (busyWith 1 [7]) :=
  ⟨by decide, by decide, fun e rest h => by simp [busyWith, State.powerOn] at h, by decide, .inl rfl⟩

/-! ### The same, statement by statement, where the witnesses above are shared -/

theorem witness_ParityBitResult : SrcFits (busyWith 3 [0x80]) ((3 + 7) / 8) ∧ SrcBitsAre (busyWith 3 [0x80]) 3 [true, false, false]
    ∧ SrcUninit (busyWith 9 [0x80]) ((9 + 7) / 8) := by decide

/-- The output of each writer that has no own check fills DST_CAP to the last byte, or passes it by one. -/
theorem witness_emits :
    (packBits (byteFrames [0x48, 0x49])).length = 3 ∧ (packBits (lzSer (lzTokens [0x41, 0x41, 0x41, 0x41]))).length = 4
      ∧ ([1] ++ parityBytes [1] 2).length = 3 ∧ (modeTag 3 ++ [0x58]).length = 3
      ∧ ({ busyWith 4 [] with dstCap := 3 } : State).dstCap.toNat = 3
      ∧ ({ busyWith 4 [] with dstCap := 2 } : State).dstCap.toNat < 3 := by decide

theorem witness_LzCompressResult :
    let s : State := { busyWith 4 [0x41, 0x41, 0x41, 0x41] with dstCap := 4 }
    SrcFits s s.srcLen.toNat ∧ DstFits s ∧ RangesApart s s.srcLen.toNat ∧ SrcBytesAre s s.srcLen.toNat [0x41, 0x41, 0x41, 0x41]
      ∧ (packBits (lzSer (lzTokens [0x41, 0x41, 0x41, 0x41]))).length = s.dstCap.toNat := by decide

theorem witness_FecEncodeResult :
    let s : State := { busyWith 1 [7] with dstCap := 3 }
    SrcFits s s.srcLen.toNat ∧ DstFits s ∧ RangesApart s s.srcLen.toNat ∧ SrcBytesAre s s.srcLen.toNat [7]
      ∧ ([7] ++ (List.range s.parityShards.toNat).map (foldOf [7])).length = s.dstCap.toNat := by decide

theorem witness_RegisterReads :
    ({ busyWith 0 [] with inputs := [.regRead 0x00 4] } : State).inputs = .regRead 0x00 4 :: []
      ∧ ({ State.powerOn 1 with inputs := [.regRead 0x7C 4] } : State).inputs = .regRead 0x7C 4 :: [] := ⟨rfl, rfl⟩

theorem witness_IdleRegisterWrites :
    let s : State := { State.powerOn 1 with inputs := [.regWrite 0x10 4 0xFFFFFFFF] }
    s.phase = .idle ∧ s.inputs = .regWrite 0x10 4 0xFFFFFFFF :: []
      ∧ ({ s with inputs := [.regWrite 0x54 4 0xFFFFFFFF] } : State).inputs = .regWrite 0x54 4 0xFFFFFFFF :: [] :=
  ⟨rfl, rfl, rfl⟩

theorem witness_WritesWhileBusy :
    let s : State := { busyWith 0 [] with inputs := [.regWrite 0x0C 4 8] }
    s.phase = .busy ∧ s.inputs = .regWrite 0x0C 4 8 :: []
      ∧ ({ s with inputs := [.regWrite 0x04 4 1] } : State).inputs = .regWrite 0x04 4 1 :: [] ∧ (1 : Word).getLsbD 1 = false
      ∧ ({ s with inputs := [.regRead 0x7C 4] } : State).inputs = .regRead 0x7C 4 :: [] :=
  ⟨rfl, rfl, rfl, rfl, rfl⟩

theorem witness_CommandAcceptance :
    ({ State.powerOn 1 with inputs := [.regWrite 0x0C 4 0] } : State).phase = .idle
      ∧ ({ State.powerOn 1 with inputs := [.regWrite 0x0C 4 0] } : State).inputs = .regWrite 0x0C 4 0 :: []
      ∧ ({ busyWith 0 [] with inputs := [.regWrite 0x0C 4 0] } : State).phase = .busy := ⟨rfl, rfl, rfl⟩

theorem witness_InterruptIsALevel :
    let s : State := { State.powerOn 1 with done := true, irqEn := true, inputs := [.regWrite 0x04 4 0] }
    exec .crc16 (busyWith 0 []) = .next (after .crc16 (busyWith 0 [])) ∧ irq s = true
      ∧ s.inputs = .regWrite 0x04 4 0 :: [] ∧ (0 : Word).getLsbD 1 = false ∧ s.phase = .idle
      ∧ ({ s with inputs := [.regWrite 0x08 4 2] } : State).inputs = .regWrite 0x08 4 0x00000002 :: [] :=
  ⟨exec_after _ _, rfl, rfl, rfl, rfl, rfl⟩

theorem witness_StatusWriteOneToClear :
    ({ busyWith 0 [] with inputs := [.regWrite 0x08 4 0xA] } : State).inputs = .regWrite 0x08 4 0xA :: [] := rfl

theorem witness_HostBufferPort :
    let s : State := { State.powerOn 8 with mem := [(7, 5)], inputs := [.bufRead 8] }
    s.phase = .idle ∧ s.inputs = .bufRead 8 :: [] ∧ s.bufBytes ≤ 8 ∧ 7 < s.bufBytes ∧ readByte s.mem 7 = some 5
      ∧ readByte s.mem 6 = none ∧ ({ s with inputs := [.bufWrite 7 1] } : State).inputs = .bufWrite 7 1 :: [] :=
  ⟨rfl, rfl, Nat.le_refl 8, Nat.lt_succ_self 7, rfl, rfl, rfl⟩

theorem witness_ResetInputState :
    ({ busyWith 0 [] with inputs := [.resetInput] } : State).inputs = .resetInput :: [] := rfl

/-- A soft reset while IDLE and while an operation that writes is in progress. -/
theorem witness_SoftResetState :
    let s : State := { busyWith 0 [] with cmd := 0x30, inputs := [.regWrite 0x04 4 2] }
    s.inputs = .regWrite 0x04 4 2 :: [] ∧ (2 : Word).getLsbD 1 = true ∧ s.phase = .busy ∧ decode s.cmd = .ok .envWrap
      ∧ writesRam .envWrap = true ∧ 0 < s.dstCap.toNat := ⟨rfl, rfl, rfl, by decide, rfl, by decide⟩

theorem witness_RepeatingACommandGivesTheSameState :
    let s : State := busyWith 1 [0x58]
    exec .envWrap s = .next (after .envWrap s) ∧ ¬ HaltedAt s (after .envWrap s) :=
  ⟨exec_after _ _, by unfold HaltedAt; decide⟩

/-- Buffer sizes at the ends of R9. -/
theorem witness_InvariantsHoldAtReset : 1 ≤ 1 ∧ 1 ≤ 2 ^ 28 ∧ 1 ≤ 2 ^ 28 ∧ 2 ^ 28 ≤ 2 ^ 28 := by decide

/-- A step whose state meets each premise of the invariants and of the whole-machine rules, and answers a next state. -/
theorem witness_EveryStep :
    let s : State := { busyWith 1 [7] with cmd := 8, werr := true, faults := ⟨true, false, true⟩ }
    StatusConsistent s ∧ StuckConsistent s ∧ MemoryConsistent s ∧ step s = .next (after .crc16 s) := by
  intro s
  refine ⟨?_, ?_, ?_, ?_⟩
  · unfold StatusConsistent; decide
  · unfold StuckConsistent; decide
  · unfold MemoryConsistent; decide
  · have h : decode s.cmd = .ok .crc16 := test_decode_crc16
    have hs : lastTurn s = coreTurn s := rfl
    rw [step_nil rfl, hs, coreTurn_enabled rfl rfl, runCommand_ok h, exec_after]

end Sys2Proof.Tests
end

