-- ==== Sys2Proof/Proofs/BitStreams.lean ====
section
/-! The bit layout of a stored stream (R67–R69): packing a bit string into bytes and reading its bits back, and what BitRead
answers after BitsOut and BitWrite. -/

namespace Sys2Proof.Machine

/-! ### Packing bits into bytes -/

theorem valMSB_lt (b : List Bool) : valMSB b < 2 ^ b.length := by
  induction b using List.reverseRecOn with
  | nil => simp [valMSB]
  | append_singleton b x ih =>
    have hx := x.toNat_le
    rw [valMSB_concat, List.length_append, List.length_singleton, Nat.pow_succ]
    omega

/-- `bitsMSB`, unfolded at its least significant bit. -/
theorem bitsMSB_succ_eq_concat (w v : Nat) : bitsMSB (w + 1) v = bitsMSB w (v / 2) ++ [v.testBit 0] := by
  induction w with
  | zero => rfl
  | succ w ih =>
    rw [bitsMSB, ih, bitsMSB, List.cons_append, Nat.testBit_succ]

/-- `bitsMSB` reads back the bits whose value `valMSB` takes (R11). -/
theorem bitsMSB_valMSB (b : List Bool) : bitsMSB b.length (valMSB b) = b := by
  induction b using List.reverseRecOn with
  | nil => rfl
  | append_singleton b x ih =>
    have hhalf : (2 * valMSB b + x.toNat) / 2 = valMSB b := by
      have hx := x.toNat_le
      omega
    have hlow : (2 * valMSB b + x.toNat).testBit 0 = x := by cases x <;> simp
    rw [List.length_append, List.length_singleton, valMSB_concat, bitsMSB_succ_eq_concat, hhalf, ih, hlow]

/-- A packed byte holds its stream bits and, below them, pad bits 0 (R67, R69). -/
theorem byteBits_packByte {b : List Bool} (h : b.length ≤ 8) :
    byteBits (packByte b) = b ++ List.replicate (8 - b.length) false := by
  have hlen : (b ++ List.replicate (8 - b.length) false).length = 8 := by simp; omega
  have hlt := valMSB_lt (b ++ List.replicate (8 - b.length) false)
  rw [hlen] at hlt
  rw [byteBits, packByte, BitVec.toNat_ofNat, Nat.mod_eq_of_lt hlt]
  simpa only [hlen] using bitsMSB_valMSB (b ++ List.replicate (8 - b.length) false)

/-- Packed bytes hold the stream bits in order and then pad bits 0 (R67, R69). -/
theorem bytesBits_packBytes {n : Nat} {b : List Bool} (h : b.length ≤ 8 * n) :
    bytesBits (packBytes n b) = b ++ List.replicate (8 * n - b.length) false := by
  induction n generalizing b with
  | zero => simp [packBytes, List.length_eq_zero_iff.1 (Nat.le_zero.1 h)]
  | succ n ih =>
    have htake : (b.take 8).length ≤ 8 := List.length_take_le 8 b
    have hdrop : (b.drop 8).length ≤ 8 * n := by rw [List.length_drop]; omega
    rw [packBytes, bytesBits_cons, byteBits_packByte htake, ih hdrop]
    rcases Nat.le_total 8 b.length with hfull | hlast
    · have hpad : 8 * n - (b.length - 8) = 8 * (n + 1) - b.length := by omega
      rw [List.length_take_of_le hfull, Nat.sub_self, List.replicate_zero, List.append_nil, ← List.append_assoc,
        List.take_append_drop, List.length_drop, hpad]
    · have hpad : 8 - b.length + 8 * n = 8 * (n + 1) - b.length := by omega
      rw [List.take_of_length_le hlast, List.drop_eq_nil_of_le hlast, List.nil_append, List.length_nil, Nat.sub_zero,
        List.append_assoc, List.replicate_append_replicate, hpad]

/-- The bits of a stored stream: the stream, then the pad bits of its last byte, all 0 (R69). -/
theorem bytesBits_packBits (b : List Bool) :
    bytesBits (packBits b) = b ++ List.replicate (8 * bytesOfBits b.length - b.length) false :=
  bytesBits_packBytes (by rw [bytesOfBits]; omega)

/-! ### BitRead after PutBytes, BitsOut and BitWrite -/

/-- BitRead of bit k is bit 7 − (k mod 8) of its byte (R67). -/
theorem bitRead_eq_getLsbD (m : Memory) (base k : Nat) :
    bitRead m base k = (readByte m (base + k / 8)).map fun v => v.getLsbD (7 - k % 8) := by
  simp only [bitRead, BitVec.getLsbD, Nat.testBit_eq_decide_div_mod_eq]

/-- BitRead in a byte string that PutBytes stored answers the string's stream bit. -/
theorem bitRead_putBytes (m : Memory) (base : Nat) (bs : List Byte) {k : Nat} (hk : k < 8 * bs.length) :
    bitRead (putBytes m base bs) base k = (bytesBits bs)[k]? := by
  rw [bitRead, readByte_putBytes, if_pos (by omega), Nat.add_sub_cancel_left, bytesBits_getElem?]

/-- BitRead after BitsOut: the stream bits, then the pad bits, up to the end of the last byte (R69). -/
theorem bitRead_bitsOut (m : Memory) (base : Nat) (b : List Bool) {k : Nat} (hk : k < 8 * ((b.length + 7) / 8)) :
    bitRead (bitsOut m base b) base k = if k < b.length then b[k]? else some false := by
  rw [bitsOut, bitRead_putBytes m base _ (by rwa [packBits_length]), bytesBits_packBits]
  split
  · next h => exact List.getElem?_append_left h
  · next h =>
    rw [List.getElem?_append_right (Nat.le_of_not_lt h), List.getElem?_replicate_of_lt (by rw [bytesOfBits]; omega)]

/-- BitsOut leaves every byte outside its ceil(L/8) bytes as it was (R69). -/
theorem readByte_bitsOut_outside (m : Memory) (base : Nat) (b : List Bool) {a : Nat}
    (h : a < base ∨ base + (b.length + 7) / 8 ≤ a) : readByte (bitsOut m base b) a = readByte m a := by
  rw [bitsOut, readByte_putBytes, packBits_length, bytesOfBits, if_neg (by omega)]

/-- BitRead after BitWrite of bit k: the bit written. -/
theorem bitRead_bitWrite_same (fresh : Nat) (m : Memory) (base k : Nat) (x : Bool) :
    bitRead (bitWrite fresh m base k x) base k = some x := by
  rw [bitRead_eq_getLsbD, readByte_bitWrite, if_pos rfl, Option.map_some, setBit_getLsbD _ _ _ _ (by omega), if_pos rfl]

/-- BitWrite of bit k keeps every other bit that is in an initialised byte (R67). -/
theorem bitRead_bitWrite_other (fresh : Nat) (m : Memory) (base : Nat) {j k : Nat} (x : Bool) (hjk : j ≠ k)
    (hj : (readByte m (base + j / 8)).isSome = true) :
    bitRead (bitWrite fresh m base k x) base j = bitRead m base j := by
  obtain ⟨v, hv⟩ := Option.isSome_iff_exists.1 hj
  rw [bitRead_eq_getLsbD, bitRead_eq_getLsbD, readByte_bitWrite]
  by_cases hbyte : j / 8 = k / 8
  · rw [← hbyte, if_pos rfl, hv, Option.getD_some, Option.map_some, Option.map_some,
      setBit_getLsbD _ _ _ _ (by omega), if_neg (by omega)]
  · rw [if_neg (by omega)]

/-- BitWrite changes no byte but the one that holds its bit (R67). -/
theorem readByte_bitWrite_other (fresh : Nat) (m : Memory) (base k : Nat) (x : Bool) {a : Nat} (h : a ≠ base + k / 8) :
    readByte (bitWrite fresh m base k x) a = readByte m a := by
  rw [readByte_bitWrite, if_neg h.symm]

/-- Settles O42: what BitRead answers after BitsOut follows from the bits of packed bytes (`bytesBits_packBits`), and what it
answers after BitWrite from the bits of a byte after `setBit`. -/
theorem bitsOutLayout : Obligations.BitsOutLayout := by
  unfold Obligations.BitsOutLayout
  intro m base b
  refine ⟨packBits_length b, fun k hk => ?stream, fun k hk hpad => ?pad, fun a => readByte_bitsOut_outside m base b,
    fun fresh k x => ⟨rfl, bitRead_bitWrite_same fresh m base k x, fun j => bitRead_bitWrite_other fresh m base x,
      fun a => readByte_bitWrite_other fresh m base k x⟩⟩
  case stream => rw [bitRead_bitsOut m base b (by omega), if_pos hk]
  case pad => rw [bitRead_bitsOut m base b hpad, if_neg (Nat.not_lt.2 hk)]

end Sys2Proof.Machine
end

