-- ==== Sys2Proof/Proofs/Encoding.lean ====
section
/-! Command words (R90–R93): what the decoder answers for a legal and for an illegal word, the core's step on each, and the
host's CMD write. -/

namespace Sys2Proof.Machine

/-! ### The decoder, in the order of its checks (R93) -/

/-- Every operation's command word decodes to the operation (R91). -/
@[simp] theorem decode_encode (i : Instr) : decode (encode i) = .ok i := by cases i <;> rfl

/-- The opcode map has a row for exactly the assigned opcodes (R91). -/
theorem lookup_opcodeMap_eq_none_iff (op : BitVec 8) : opcodeMap.lookup op = none ↔ op ∉ assignedOpcodes := by
  have hkeys : opcodeMap.map Prod.fst = assignedOpcodes := rfl
  rw [← hkeys, List.lookup_eq_none_iff, List.mem_map]
  constructor
  · rintro h ⟨row, hrow, rfl⟩
    simpa using h row hrow
  · intro h row hrow
    exact bne_iff_ne.2 fun heq => h ⟨row, hrow, heq.symm⟩

theorem decode_of_reserved_ne_zero {w : Word} (h : reservedField w ≠ 0) : decode w = .error .reservedNotZero := by
  rw [decode, if_neg h]

theorem decode_of_unassigned {w : Word} (hr : reservedField w = 0) (ho : opcodeField w ∉ assignedOpcodes) :
    decode w = .error .unassignedOpcode := by
  rw [decode, if_pos hr, (lookup_opcodeMap_eq_none_iff _).2 ho]

/-- The decoder refuses every word that R93 calls illegal. -/
theorem decode_of_illegal {w : Word} (h : reservedField w ≠ 0 ∨ opcodeField w ∉ assignedOpcodes) :
    ∃ e, decode w = .error e := by
  by_cases hr : reservedField w = 0
  · exact ⟨_, decode_of_unassigned hr (h.resolve_left (not_not_intro hr))⟩
  · exact ⟨_, decode_of_reserved_ne_zero hr⟩

/-- An opcode alone in a word: the reserved field is 0 (R26). -/
theorem reservedField_setWidth (op : BitVec 8) : reservedField (op.setWidth 32) = 0 := by
  ext k hk
  simp [reservedField]

theorem opcodeField_setWidth (op : BitVec 8) : opcodeField (op.setWidth 32) = op := by
  rw [opcodeField, ← BitVec.setWidth_eq_extractLsb' (by decide), BitVec.setWidth_setWidth_of_le _ (by decide),
    BitVec.setWidth_eq]

/-- Settles O2: each word of the map is the `encode` of its operation, and an opcode without a row is refused. -/
theorem opcodeMapWords : Obligations.OpcodeMapWords := by
  unfold Obligations.OpcodeMapWords
  refine ⟨decode_encode .luma, decode_encode .threshold, decode_encode .bitDecide, decode_encode .parBit,
    decode_encode .parCheck, decode_encode .parEncode, decode_encode .parDecode, decode_encode .crc16,
    decode_encode .frameCreate, decode_encode .frameParse, decode_encode .chunk, decode_encode .reassemble,
    decode_encode .lzCompress, decode_encode .lzDecompress, decode_encode .compressData, decode_encode .fecEncode,
    decode_encode .fecDecode, decode_encode .envWrap, decode_encode .envUnwrap, fun op hop => ?unassigned⟩
  case unassigned =>
    exact decode_of_unassigned (reservedField_setWidth op) (by rw [opcodeField_setWidth]; exact hop)

/-! ### The core's step on a command word (R93, R97) -/

/-- Nothing is pending and the core is not stuck: the core moves (R311). -/
theorem step_of_inputs_nil {s : State} (hi : s.inputs = []) (hs : s.stuck = false) : step s = coreTurn s := by
  rw [step_nil hi, lastTurn, hs, Bool.and_false, if_neg Bool.false_ne_true]

/-- A `coreTurn` comes first: the core moves, and the events after it stay pending (R311). -/
theorem step_of_coreTurn {s : State} {rest : List Input} (hi : s.inputs = .coreTurn :: rest) :
    step s = coreTurn { s with inputs := rest } := step_cons hi

/-- The core's turn on a command word that the decoder refuses (R93). -/
theorem coreTurn_of_decode_error {s : State} {e : DecodeError} (hb : s.phase = .busy) (hs : s.stuck = false)
    (hd : decode s.cmd = .error e) : ∃ t, coreTurn s = .next t ∧ CompletedAs s t .illegalOpcode 0 0 0 0 [] :=
  ⟨_, (coreTurn_enabled hb hs).trans (runCommand_error hd), completedAs_complete s { rc := .illegalOpcode }⟩

/-- Settles O4: the decoder refuses an illegal word (`decode_of_illegal`), and the core's turn on a refused word completes
with ILLEGAL_OPCODE; the step is that turn whether nothing is pending or a `coreTurn` comes first. -/
theorem illegalCommandWordCompletes : Obligations.IllegalCommandWordCompletes := by
  unfold Obligations.IllegalCommandWordCompletes
  intro s hb hs hw
  obtain ⟨e, hd⟩ := decode_of_illegal hw
  refine ⟨fun hi => ?nothingPending, fun rest hi => ?coreTurnFirst⟩
  case nothingPending =>
    rw [step_of_inputs_nil hi hs]
    exact coreTurn_of_decode_error hb hs hd
  case coreTurnFirst =>
    rw [step_of_coreTurn hi]
    exact coreTurn_of_decode_error hb hs hd

/-! ### Register writes and the acceptance of a command word (R42, R90) -/

theorem unlessBusy_of_idle {s : State} (t : State) (h : s.phase = .idle) : unlessBusy s t = t := by
  simp [unlessBusy, busy, h]

theorem unlessBusy_of_busy {s : State} (t : State) (h : s.phase = .busy) : unlessBusy s t = dropWrite s := by
  simp [unlessBusy, busy, h]

/-- A pending register write that reaches a register takes its effect there (R22). -/
theorem step_regWrite {s : State} {offset size : Nat} {v : Word} {rest : List Input} {r : RegName}
    (hi : s.inputs = .regWrite offset size v :: rest) (hr : regAt offset size = some r) :
    step s = .next (writeReg { s with inputs := rest } v r) := by
  rw [step_cons hi, takeInput_host (by simp), hostEvent, hostRegWrite, hr]

/-- Settles O47: a write at 0x0C reaches CMD, which takes the word while IDLE and drops the write while BUSY. -/
theorem commandAcceptance : Obligations.CommandAcceptance := by
  unfold Obligations.CommandAcceptance
  intro s w rest hi
  have hstep : step s = .next (unlessBusy { s with inputs := rest } (acceptCommand { s with inputs := rest } w)) :=
    step_regWrite (r := .cmd) hi rfl
  refine ⟨fun hp => ?idle, fun hp => ?busy⟩
  case idle => exact hstep.trans (congrArg _ (unlessBusy_of_idle _ hp))
  case busy => exact hstep.trans (congrArg _ (unlessBusy_of_busy _ hp))

end Sys2Proof.Machine
end


/-! The bit and parity codec (40_bitcodec.md): what LUMA, THRESHOLD, BIT_DECIDE, PAR_BIT, PAR_CHECK, PAR_ENCODE and
PAR_DECODE do in each case of their rules. -/

namespace Sys2Proof.Machine

/-! ### Words and counts -/

/-- A register's value, taken as a count and reported, is the register (R100). -/
@[simp] theorem resWord_toNat (w : Word) : resWord w.toNat = w := by
  rw [resWord, BitVec.ofNat_toNat, BitVec.setWidth_eq]

/-! ### LUMA (R140) -/

/-- LUMA touches no buffer RAM, so no common check can fail (R95, R98). -/
theorem commonCheck_luma (s : State) : commonCheck .luma s = none := rfl

theorem performLuma_of_reserved {s : State} (h : s.arg0.extractLsb' 24 8 ≠ 0) : performLuma s = raiseRc .badArg :=
  if_pos ((field_ne_zero s.arg0 31 24).2 h)

theorem performLuma_of_sample {s : State} (h : s.arg0.extractLsb' 24 8 = 0) :
    performLuma s = .ok
      { rc := .success
        res0 := resWord (299 * (s.arg0.extractLsb' 16 8).toNat + 587 * (s.arg0.extractLsb' 8 8).toNat
          + 114 * (s.arg0.extractLsb' 0 8).toNat) } := by
  have hreserved : ¬ field s.arg0 31 24 ≠ 0 := fun hne => (field_ne_zero s.arg0 31 24).1 hne h
  rw [performLuma, if_neg hreserved, lumaOf, field_eq_extract, field_eq_extract, field_eq_extract]

/-- Settles O5: no common check applies, and ARG0[31:24] decides between BAD_ARG and the luma of the sample. -/
theorem lumaResult : Obligations.LumaResult := by
  unfold Obligations.LumaResult
  refine ⟨decode_encode .luma, fun s => ?_⟩
  have hx : exec .luma s = finish s (performLuma s) := exec_of_checked (commonCheck_luma s)
  exact ⟨fun h => ends_of_raise (hx.trans (congrArg _ (performLuma_of_reserved h))),
    fun h => ends_of_finish (hx.trans (congrArg _ (performLuma_of_sample h)))⟩

/-! ### THRESHOLD and BIT_DECIDE (R141, R142) -/

/-- The default of R141: 128000/1, whatever the margin. -/
theorem performThreshold_of_no_samples {s : State} (h : s.srcLen.toNat = 0) :
    performThreshold s = .ok { rc := .calibrationInsufficient, res0 := 128000, res1 := 0, res2 := 1, res3 := 0 } := by
  rw [performThreshold, srcCount, h]
  rfl

/-- R141 with samples: the mean plus the margin over the common denominator n, its numerator in two words. -/
theorem performThreshold_of_samples {s : State} (h : s.srcLen.toNat ≠ 0) :
    performThreshold s = withSamples s s.srcLen.toNat fun v =>
      .ok
        { rc := .success
          res0 := resWord ((v.sum + s.cfgMargin.toNat * s.srcLen.toNat) % 2 ^ 32)
          res1 := resWord ((v.sum + s.cfgMargin.toNat * s.srcLen.toNat) / 2 ^ 32)
          res2 := s.srcLen
          res3 := s.srcLen } := by
  rw [performThreshold, if_neg h]
  simp only [thresholdResult, resWord_toNat]

/-- A sample is a 4-byte number (R119). -/
theorem sample_lt {s : State} {n : Nat} {v : List Nat} (hv : SrcSamplesAre s n v) : ∀ x ∈ v, x < 2 ^ 32 := by
  intro x hx
  obtain ⟨k, hk, rfl⟩ := List.mem_iff_getElem.1 hx
  have hread := hv.2 k (hv.1 ▸ hk)
  rw [List.getElem?_eq_getElem hk, memRead, Option.map_eq_some_iff] at hread
  obtain ⟨bytes, hbytes, hval⟩ := hread
  have hlt := beVal_lt bytes
  rw [memBytes_length hbytes, hval] at hlt
  exact hlt

/-- Within the buffer sizes of R9, NUM of R141 is below 2^59: at most 2^26 samples fit. -/
theorem thresholdSum_lt {s : State} {v : List Nat} (hsize : BufferSizeLegal s) (hfits : SrcFits s (4 * s.srcLen.toNat))
    (hv : SrcSamplesAre s s.srcLen.toNat v) : v.sum + s.cfgMargin.toNat * s.srcLen.toNat < 2 ^ 59 := by
  have hn : s.srcLen.toNat ≤ 2 ^ 26 := by
    have hmax := hsize.2
    have hsrc : s.srcAddr.toNat + 4 * s.srcLen.toNat ≤ s.bufBytes := hfits
    omega
  have hsum : v.sum ≤ s.srcLen.toNat * (2 ^ 32 - 1) := by
    have h := List.sum_le_card_nsmul v (2 ^ 32 - 1) fun x hx => Nat.le_pred_of_lt (sample_lt hv x hx)
    rwa [hv.1, smul_eq_mul] at h
  have hmargin : s.cfgMargin.toNat * s.srcLen.toNat ≤ (2 ^ 32 - 1) * s.srcLen.toNat :=
    Nat.mul_le_mul_right _ (Nat.le_pred_of_lt s.cfgMargin.isLt)
  omega

/-- `readerChecks_of`, where the operation's own rule leans on the SRC range that fits. -/
theorem readerChecks_of_fits {i : Instr} {s : State} {n : Nat} {own : Prop} (hr : readsRam i = true)
    (hw : writesRam i = false) (hn : srcBytes i s = n) (h : SrcFits s n → exec i s = finish s (performOf i s) → own) :
    ReaderChecks i s n own :=
  have ⟨hout, hin⟩ := readerChecks_of (own := SrcFits s n → own) hr hw hn fun hx hfits => h hfits hx
  ⟨hout, fun hfits => hin hfits hfits⟩

/-- `onSamples_of`, where the operation's own rule leans on where its samples stand. -/
theorem onSamples_of_read {i : Instr} {s : State} {n : Nat} {k : List Nat → Perform} {own : List Nat → Prop}
    (hx : exec i s = finish s (withSamples s n k))
    (h : ∀ v, SrcSamplesAre s n v → exec i s = finish s (k v) → own v) : OnSamples i s n own :=
  have ⟨hhalts, hown⟩ := onSamples_of (own := fun v => SrcSamplesAre s n v → own v) hx fun v _ hx hv => h v hv hx
  ⟨hhalts, fun v hv => hown v hv hv⟩

/-- Settles O6: the two cases of R141 behind the common checks; the bound on NUM is `thresholdSum_lt`. -/
theorem BitCodec.thresholdResult : Obligations.ThresholdResult := by
  unfold Obligations.ThresholdResult
  refine ⟨decode_encode .threshold, fun s => readerChecks_of_fits rfl rfl rfl fun hfits hx =>
    ⟨fun h => ?default, fun h => ?mean⟩⟩
  case default => exact ends_of_finish (hx.trans (congrArg _ (performThreshold_of_no_samples h)))
  case mean =>
    refine onSamples_of_read (hx.trans (congrArg _ (performThreshold_of_samples h))) fun v hv hx => ?_
    rintro num rfl
    exact ⟨fun hsize => thresholdSum_lt hsize hfits hv, ends_of_finish hx⟩

theorem performBitDecide_of_zero {s : State} (h : s.arg2 = 0) : performBitDecide s = raiseRc .badArg := by
  rw [performBitDecide, h]
  rfl

/-- R142 with DEN ≠ 0: the bits of the samples, packed, and their count. -/
theorem performBitDecide_of_ne_zero {s : State} (h : s.arg2 ≠ 0) :
    performBitDecide s = withSamples s s.srcLen.toNat fun v =>
      emit s { rc := .success }
        { rc := .success, res0 := s.srcLen
          res1 := resWord (popcount (v.map (decideBit (thresholdNum s) s.arg2.toNat)))
          out := packBits (v.map (decideBit (thresholdNum s) s.arg2.toNat)) } := by
  have hden : s.arg2.toNat ≠ 0 := BitVec.toNat_ne_iff_ne.2 h
  rw [performBitDecide, if_neg hden]
  simp only [resWord_toNat]

/-- Settles O7: DEN = 0 is refused before anything is read; otherwise the samples are compared with `decideBit`. -/
theorem bitDecideResult : Obligations.BitDecideResult := by
  unfold Obligations.BitDecideResult
  refine ⟨decode_encode .bitDecide, fun s => writerChecks_of rfl rfl rfl fun hx =>
    ⟨fun h => ?zeroDen, fun h => ?compare⟩⟩
  case zeroDen => exact ends_of_raise (hx.trans (congrArg _ (performBitDecide_of_zero h)))
  case compare =>
    refine onSamples_of (hx.trans (congrArg _ (performBitDecide_of_ne_zero h))) fun v _ hx => ?_
    rintro b rfl
    exact emits_of_finish hx

/-! ### PAR_BIT, PAR_CHECK and PAR_ENCODE (R150–R152) -/

/-- Settles O8: after the common checks PAR_BIT reads the stream and counts its 1 bits. -/
theorem parityBitResult : Obligations.ParityBitResult := by
  unfold Obligations.ParityBitResult
  exact ⟨decode_encode .parBit, fun s => readerChecks_of rfl rfl rfl fun hx =>
    onSrcBits_of hx fun b _ hx => ends_of_finish hx⟩

theorem performParCheck_of_length_ne {s : State} (h : s.srcLen ≠ 9) : performParCheck s = raiseRc .parityMismatch :=
  if_pos (BitVec.toNat_ne_iff_ne.2 h)

theorem performParCheck_of_length_eq {s : State} (h : s.srcLen = 9) :
    performParCheck s = withSrcBits s 9 fun b =>
      if parityOf b = 0 then .ok { rc := .success, res0 := 1, res1 := resWord (popcount b) }
      else .ok { rc := .parityMismatch, res0 := 0, res1 := resWord (popcount b) } :=
  if_neg (not_not_intro (congrArg BitVec.toNat h))

/-- Settles O9: a length other than 9 is refused without a read; nine bits pass where their parity is even. -/
theorem parityCheckResult : Obligations.ParityCheckResult := by
  unfold Obligations.ParityCheckResult
  refine ⟨decode_encode .parCheck, fun s => readerChecks_of rfl rfl rfl fun hx =>
    ⟨fun h => ?badLength, fun h => onSrcBits_of (hx.trans (congrArg _ (performParCheck_of_length_eq h))) fun b _ hx =>
      ⟨fun heven => ?even, fun hodd => ?odd⟩⟩⟩
  case badLength => exact ends_of_raise (hx.trans (congrArg _ (performParCheck_of_length_ne h)))
  case even =>
    have hpar : parityOf b = 0 := heven
    rw [if_pos hpar] at hx
    exact ends_of_finish hx
  case odd =>
    have hpar : parityOf b ≠ 0 := by rw [parityOf, popcount, hodd]; decide
    rw [if_neg hpar] at hx
    exact ends_of_finish hx

/-- The frames of a byte string, bit by bit: each byte's bits, then the bit that makes the count of 1s even (R113). -/
theorem byteFrames_eq_flatMap (d : List Byte) :
    byteFrames d = d.flatMap fun x => bitsMSB 8 x.toNat ++ [decide ((bitsMSB 8 x.toNat).count true % 2 = 1)] := rfl

/-- Settles O10: the output is the packed frames of the bytes read, which `byteFrames_eq_flatMap` writes out. -/
theorem parityEncodeResult : Obligations.ParityEncodeResult := by
  unfold Obligations.ParityEncodeResult
  refine ⟨decode_encode .parEncode, fun s => writerChecks_of rfl rfl rfl fun hx => onSrcBytes_of hx fun d _ hx => ?_⟩
  rw [← byteFrames_eq_flatMap]
  exact emits_of_finish hx

/-! ### PAR_DECODE: the frames of a stream (R153) -/

/-- The frames are the slices of nine bits, as many as are complete. -/
theorem splitFrames_eq_map (b : List Bool) :
    splitFrames b = (List.range (b.length / 9)).map fun i => slice b (9 * i) 9 := rfl

theorem frameBad_eq_decide (f : List Bool) : frameBad f = decide (f.count true % 2 = 1) := rfl

/-- A frame's data byte is its first eight bits. -/
theorem frameData_slice (b : List Bool) (off : Nat) :
    frameData (slice b off 9) = BitVec.ofNat 8 (valMSB (slice b off 8)) := by
  rw [frameData, List.take_take, Nat.min_eq_left (by decide)]

theorem splitFrames_map_frameData (b : List Bool) :
    (splitFrames b).map frameData =
      (List.range (b.length / 9)).map fun i => BitVec.ofNat 8 (valMSB (slice b (9 * i) 8)) := by
  rw [splitFrames_eq_map, List.map_map]
  exact List.map_congr_left fun i _ => frameData_slice b (9 * i)

/-- F counts the indices of the failing frames, and one more for a trailing partial frame. -/
theorem parityFailures_eq_length_filter (b : List Bool) :
    parityFailures b =
      ((List.range (b.length / 9)).filter fun i => frameBad (slice b (9 * i) 9)).length
        + (if 0 < b.length % 9 then 1 else 0) := by
  rw [parityFailures, splitFrames_eq_map, List.countP_map, List.countP_eq_length_filter]
  rfl

/-- `first` is the least failing frame, if a complete frame fails; else the partial frame's index, or none. -/
theorem firstFailure_cases (b : List Bool) :
    (∃ i < b.length / 9, frameBad (slice b (9 * i) 9) = true ∧ (∀ j < i, frameBad (slice b (9 * j) 9) = false)
        ∧ firstFailure b = resWord i)
      ∨ ((∀ i < b.length / 9, frameBad (slice b (9 * i) 9) = false)
        ∧ firstFailure b = if 0 < b.length % 9 then resWord (b.length / 9) else Config.noneWord) := by
  cases h : (splitFrames b).findIdx? frameBad with
  | some i =>
    obtain ⟨hi, hbad, hbefore⟩ := List.findIdx?_eq_some_iff_getElem.1 h
    refine .inl ⟨i, ?_, ?_, fun j hj => ?_, by rw [firstFailure, h]⟩
    · simpa [splitFrames_eq_map] using hi
    · simpa [splitFrames_eq_map] using hbad
    · simpa [splitFrames_eq_map] using hbefore j hj
  | none =>
    refine .inr ⟨fun i hi => ?_, by rw [firstFailure, h]⟩
    exact List.findIdx?_eq_none_iff.1 h _ (List.mem_map_of_mem (List.mem_range.2 hi))

/-- Settles O11: the failures and the data bytes are counted and read frame by frame (`parityFailures_eq_length_filter`,
`splitFrames_map_frameData`), and the two hypotheses on `first` are the two cases of `firstFailure_cases`. -/
theorem parityDecodeResult : Obligations.ParityDecodeResult := by
  unfold Obligations.ParityDecodeResult
  refine ⟨decode_encode .parDecode, fun s => writerChecks_of rfl rfl rfl fun hx => onSrcBits_of hx fun b hlen hx => ?_⟩
  intro k r fails bad first hk hr hbad hfails hsome hnone
  rw [← hlen] at hk hr
  subst hk hr
  have hframe : ∀ i, frameBad (slice b (9 * i) 9) = bad i := fun i =>
    (frameBad_eq_decide _).trans (hbad i).symm
  have hF : parityFailures b = fails := by simp only [parityFailures_eq_length_filter, hframe, hfails]
  have hfirst : firstFailure b = first := by
    rcases firstFailure_cases b with ⟨i, hi, hfail, hbefore, heq⟩ | ⟨hgood, heq⟩
    · simp only [hframe] at hfail hbefore
      rw [heq, hsome i hi hfail hbefore, resWord]
    · simp only [hframe] at hgood
      rw [heq, hnone hgood]
      rfl
  have hL : resWord b.length = s.srcLen := by rw [hlen, resWord_toNat]
  have hemits := emits_of_finish hx
  simp only [parDecodeResult, hF, hfirst, hL, splitFrames_map_frameData] at hemits
  exact hemits

end Sys2Proof.Machine


/-! The CRC-16 unit (41_crc16.md): the register arithmetic of R170, the operation CRC16 (R171), and what a change of one
byte does to the checksum (R173). -/

namespace Sys2Proof.Machine

/-! ### The register, shift by shift (R170) -/

/-- A byte goes into the register's high byte. -/
theorem setWidth_shiftLeft_eight (d : Byte) : d.setWidth 16 <<< 8 = BitVec.ofNat 16 (d.toNat * 2 ^ 8) := by
  apply BitVec.eq_of_toNat_eq
  simp [Nat.shiftLeft_eq]

/-- One shift in the arithmetic of R170. -/
theorem crcShift_eq_ite (c : BitVec 16) :
    crcShift c = if 2 ^ 15 ≤ c.toNat then BitVec.ofNat 16 (c.toNat * 2 % 2 ^ 16) ^^^ 0x1021
      else BitVec.ofNat 16 (c.toNat * 2 % 2 ^ 16) := by
  have htop : c.getLsbD 15 = decide (2 ^ 15 ≤ c.toNat) := BitVec.msb_eq_decide c
  have hdouble : c <<< 1 = BitVec.ofNat 16 (c.toNat * 2 % 2 ^ 16) := by
    apply BitVec.eq_of_toNat_eq
    simp [Nat.shiftLeft_eq]
  simp only [crcShift, htop, hdouble, decide_eq_true_eq, Config.crcPolynomial]

theorem crcShifts_eq_iterate (n : Nat) (c : BitVec 16) : crcShifts n c = crcShift^[n] c := by
  induction n generalizing c with
  | zero => rfl
  | succ n ih => exact ih (crcShift c)

/-- A sequence in which each register is the shift of the one before reaches the n-th shift of the first. -/
theorem eq_crcShifts_of_succ {c : Nat → BitVec 16} {n : Nat} (h : ∀ k, k < n → c (k + 1) = crcShift (c k)) :
    c n = crcShifts n (c 0) := by
  rw [crcShifts_eq_iterate]
  induction n with
  | zero => rfl
  | succ n ih =>
    have hn : c n = crcShift^[n] (c 0) := ih fun k hk => h k (Nat.lt_succ_of_lt hk)
    rw [Function.iterate_succ_apply', ← hn, h n n.lt_succ_self]

@[simp] theorem crc16_nil : crc16 [] = 0xFFFF := rfl

theorem crc16_concat (p : List Byte) (d : Byte) : crc16 (p ++ [d]) = crcByte (crc16 p) d := by
  rw [crc16, List.foldl_concat, ← crc16]

/-! ### The operation (R171) -/

/-- Settles O13: a sequence as R170 describes it is the model's eight shifts (`crcShift_eq_ite`, `eq_crcShifts_of_succ`), and
after the common checks the operation reports the CRC of the bytes read. -/
theorem crc16Result : Obligations.Crc16Result := by
  unfold Obligations.Crc16Result
  refine ⟨decode_encode .crc16, crc16_nil, fun p d c hfirst hshift => ?register, fun s =>
    readerChecks_of rfl rfl rfl fun hx => onSrcBytes_of hx fun p _ hx => ends_of_finish hx⟩
  case register =>
    have hstep : ∀ k, k < 8 → c (k + 1) = crcShift (c k) := fun k hk =>
      (hshift k hk).trans (crcShift_eq_ite (c k)).symm
    rw [crc16_concat, crcByte, setWidth_shiftLeft_eight, ← hfirst, eq_crcShifts_of_succ hstep]

/-! ### No information is lost in the register (R173) -/

/-- The polynomial's constant term is 1, so a shift moves the bit it vacates into bit 0. -/
theorem crcShift_getLsbD_zero (c : BitVec 16) : (crcShift c).getLsbD 0 = c.getLsbD 15 := by
  rw [crcShift]
  split <;> simp_all [Config.crcPolynomial]

/-- A left shift by one loses bit 15 only. -/
theorem eq_of_shiftLeft_one_eq {a b : BitVec 16} (htop : a.getLsbD 15 = b.getLsbD 15) (h : a <<< 1 = b <<< 1) : a = b := by
  refine BitVec.eq_of_getElem_eq fun i hi => ?_
  rcases Nat.lt_or_ge i 15 with hlow | hhigh
  · have hbit := congrArg (·.getLsbD (i + 1)) h
    simpa [Nat.succ_lt_succ hlow] using hbit
  · obtain rfl : i = 15 := by omega
    simpa using htop

/-- A shift can be undone: bit 0 of its result tells which bit was vacated, and so whether the polynomial was XORed in. -/
theorem crcShift_injective : Function.Injective crcShift := by
  intro a b h
  have htop : a.getLsbD 15 = b.getLsbD 15 := by rw [← crcShift_getLsbD_zero, h, crcShift_getLsbD_zero]
  refine eq_of_shiftLeft_one_eq htop ?_
  rw [crcShift, crcShift, htop] at h
  split at h
  · exact (BitVec.xor_left_inj _).1 h
  · exact h

theorem crcShifts_injective (n : Nat) : Function.Injective (crcShifts n) := by
  rw [show crcShifts n = crcShift^[n] from funext (crcShifts_eq_iterate n)]
  exact crcShift_injective.iterate n

/-- Different registers stay different when they take the same byte. -/
theorem crcByte_left_injective (d : Byte) : Function.Injective (crcByte · d) := fun _ _ h =>
  (BitVec.xor_left_inj _).1 (crcShifts_injective 8 h)

/-- Different bytes take one register to different registers. -/
theorem crcByte_right_injective (c : BitVec 16) : Function.Injective (crcByte c) := by
  intro d e h
  have hhigh : d.setWidth 16 <<< 8 = e.setWidth 16 <<< 8 := (BitVec.xor_right_inj _).1 (crcShifts_injective 8 h)
  rw [setWidth_shiftLeft_eight, setWidth_shiftLeft_eight] at hhigh
  bv_omega

/-- Different registers stay different when they take the same string. -/
theorem foldl_crcByte_injective (p : List Byte) : Function.Injective (p.foldl crcByte ·) := by
  induction p with
  | nil => exact Function.injective_id
  | cons d p ih => exact ih.comp (crcByte_left_injective d)

/-- Replacing one byte by another one changes the CRC: the registers part at that byte and never meet again. -/
theorem crc16_set_ne {p : List Byte} {i : Nat} {d : Byte} (hi : i < p.length) (hd : d ≠ p[i]) :
    crc16 (p.set i d) ≠ crc16 p := by
  intro h
  have hsplit : p = p.take i ++ p[i] :: p.drop (i + 1) := by simp
  rw [List.set_eq_take_append_cons_drop, if_pos hi] at h
  conv_rhs at h => rw [hsplit]
  simp only [crc16, List.foldl_append, List.foldl_cons] at h
  exact hd (crcByte_right_injective _ (foldl_crcByte_injective _ h))

/-- Flipping a bit of a byte gives another byte. -/
theorem xor_twoPow_ne {w k : Nat} (x : BitVec w) (hk : k < w) : x ^^^ BitVec.twoPow w k ≠ x := by
  intro h
  have hbit := congrArg (·.getLsbD k) h
  simp [hk] at hbit

/-- R173: flipping one bit of a byte string changes its CRC. -/
theorem crc16_flip_ne {p : List Byte} {i k : Nat} (hi : i < p.length) (hk : k < 8) :
    crc16 (p.set i (p.getD i 0 ^^^ BitVec.twoPow 8 k)) ≠ crc16 p := by
  rw [← List.getElem_eq_getD (h := hi)]
  exact crc16_set_ne hi (xor_twoPow_ne p[i] hk)

/-! ### "HELLO" (R173) -/

/-- The string of R173's example. -/
def helloBytes : List Byte := [0x48, 0x45, 0x4C, 0x4C, 0x4F]

/-- The CRC of "HELLO" with bit n % 8 of its byte n / 8 flipped. -/
def helloFlipCrc (n : Nat) : BitVec 16 :=
  crc16 (helloBytes.set (n / 8) (helloBytes.getD (n / 8) 0 ^^^ BitVec.twoPow 8 (n % 8)))

theorem crc16_helloBytes : crc16 helloBytes = 0x49D6 := by decide +kernel

theorem helloFlipCrc_nodup : ((List.range 40).map helloFlipCrc).Nodup := by decide +kernel

theorem helloFlipCrc_ne {n : Nat} (hn : n < 40) : helloFlipCrc n ≠ 0x49D6 := by
  rw [← crc16_helloBytes]
  exact crc16_flip_ne (Nat.div_lt_of_lt_mul hn) (Nat.mod_lt n (by decide))

/-- Settles O14: `crc16_flip_ne` for every string; the 40 values of "HELLO" are computed to be distinct, and that none of
them is the CRC of "HELLO" itself is the general fact again. -/
theorem crcDetectsEverySingleBitFlip : Obligations.CrcDetectsEverySingleBitFlip := by
  unfold Obligations.CrcDetectsEverySingleBitFlip
  refine ⟨fun _ _ _ => crc16_flip_ne, ?hello⟩
  case hello =>
    rintro _ rfl _ rfl
    refine ⟨helloFlipCrc_nodup, fun hmem => ?_⟩
    obtain ⟨n, hn, hcrc⟩ := List.mem_map.1 hmem
    exact helloFlipCrc_ne (List.mem_range.1 hn) hcrc

end Sys2Proof.Machine


/-! The packet framer and parser (42_framer.md): what FRAME_CREATE and FRAME_PARSE do in each case of their rules, the fields
of a packet read back from its stream, and the round trip of R189. -/

namespace Sys2Proof.Machine

/-! ### FRAME_CREATE (R180) -/

theorem performFrameCreate_of_reserved {s : State}
    (h : s.arg0.extractLsb' 8 24 ≠ 0 ∨ s.arg1.extractLsb' 8 24 ≠ 0) : performFrameCreate s = raiseRc .badArg :=
  if_pos (h.imp (field_ne_zero s.arg0 31 8).2 (field_ne_zero s.arg1 31 8).2)

/-- Where both reserved fields are 0, the length decides whether any byte is read. -/
theorem performFrameCreate_of_args {s : State} (h0 : s.arg0.extractLsb' 8 24 = 0) (h1 : s.arg1.extractLsb' 8 24 = 0) :
    performFrameCreate s =
      if 65535 < s.srcLen.toNat then raiseRc .badLength
      else withSrcBytes s s.srcLen.toNat fun p =>
        emit s { rc := .success }
          { rc := .success, res0 := resWord (64 + 8 * s.srcLen.toNat), res1 := (crc16 p).setWidth 32
            out := packBits (packet (lowByte s.arg0) (lowByte s.arg1) p) } :=
  if_neg (not_or.2 ⟨fun h => (field_ne_zero s.arg0 31 8).1 h h0, fun h => (field_ne_zero s.arg1 31 8).1 h h1⟩)

/-- The packet of two byte operands, field by field (R110). -/
theorem packet_lowByte (a f : Word) (p : List Byte) :
    packet (lowByte a) (lowByte f) p =
      bitsMSB 8 0xFF ++ bitsMSB 8 a.toNat ++ bitsMSB 8 f.toNat ++ bitsMSB 16 p.length
        ++ (p.flatMap fun x => bitsMSB 8 x.toNat) ++ bitsMSB 16 (crc16 p).toNat ++ bitsMSB 8 0x00 := by
  rw [packet, byteBits_lowByte, byteBits_lowByte]
  rfl

/-- Settles O16: the argument check and the length check of R180 come before the read; the output is the packet, whose
fields `packet_lowByte` writes out. -/
theorem frameCreateResult : Obligations.FrameCreateResult := by
  unfold Obligations.FrameCreateResult
  refine ⟨decode_encode .frameCreate, fun s => writerChecks_of rfl rfl rfl fun hx =>
    ⟨fun h => ?badArg, fun h0 h1 hlong => ?badLength, fun h0 h1 hfits => ?create⟩⟩
  case badArg => exact ends_of_raise (hx.trans (congrArg _ (performFrameCreate_of_reserved h)))
  case badLength =>
    exact ends_of_raise (hx.trans (congrArg _ ((performFrameCreate_of_args h0 h1).trans (if_pos hlong))))
  case create =>
    have hread := (performFrameCreate_of_args h0 h1).trans (if_neg (Nat.not_lt.2 hfits))
    refine onSrcBytes_of (hx.trans (congrArg _ hread)) fun p hlen hx => ?_
    rw [← hlen, ← packet_lowByte, hlen]
    exact emits_of_finish hx

/-! ### The parser, in the order of its failures (R185, R188) -/

section Parser
variable {bound n st : Nat} {b : List Bool} {hdr : Completion}

/-- The RES registers that HEADER names, for a packet whose START is at `st` (R185). -/
def headerCompletion (b : List Bool) (st : Nat) : Completion :=
  { rc := .success
    res0 := resWord (streamField b (st + 8) 8)
    res1 := resWord (streamField b (st + 16) 8)
    res2 := resWord (streamField b (st + 24) 16)
    res3 := resWord st }

theorem parsePacket_of_no_start (h : ¬ ∃ st, IsFirstStart b st) :
    parsePacket bound b = { rc := .frameNotFound, res3 := 0xFFFFFFFF } := by
  have hhunt : huntStart b = none :=
    Option.eq_none_iff_forall_ne_some.2 fun st hst => h ⟨st, (huntStart_eq_some_iff b st).1 hst⟩
  rw [parsePacket, hhunt]
  rfl

theorem parsePacket_of_short_header (hst : IsFirstStart b st) (hlen : b.length < st + 40) :
    parsePacket bound b = { rc := .incompletePacket, res3 := resWord st } := by
  rw [parsePacket, (huntStart_eq_some_iff b st).2 hst]
  exact if_pos hlen

/-- A whole header: LENGTH and the RES registers it names go on to the body. -/
theorem parsePacket_of_header (hst : IsFirstStart b st) (hlen : st + 40 ≤ b.length) :
    parsePacket bound b = parseBody bound b st (streamField b (st + 24) 16) (headerCompletion b st) := by
  rw [parsePacket, (huntStart_eq_some_iff b st).2 hst]
  exact if_neg (Nat.not_lt.2 hlen)

theorem parseBody_of_bound_lt (hn : bound < n) : parseBody bound b st n hdr = { hdr with rc := .badLength } :=
  if_pos hn

theorem parseBody_of_cut (hn : n ≤ bound) (hlen : b.length < st + 64 + 8 * n) :
    parseBody bound b st n hdr = { hdr with rc := .incompletePacket } := by
  rw [parseBody, if_neg (Nat.not_lt.2 hn), if_pos hlen]

/-- A whole packet: its checksum field decides first, then its last byte. -/
theorem parseBody_of_whole (hn : n ≤ bound) (hlen : st + 64 + 8 * n ≤ b.length) :
    parseBody bound b st n hdr =
      if streamField b (st + 40 + 8 * n) 16 ≠ (crc16 (streamBytes b (st + 40) n)).toNat then
        { hdr with rc := .checksumMismatch }
      else if streamField b (st + 56 + 8 * n) 8 ≠ 0 then { hdr with rc := .invalidEndFrame }
      else { hdr with rc := .success, out := streamBytes b (st + 40) n } := by
  rw [parseBody, if_neg (Nat.not_lt.2 hn), if_neg (Nat.not_lt.2 hlen)]
  rfl

theorem parseBody_of_checksum_ne (hn : n ≤ bound) (hlen : st + 64 + 8 * n ≤ b.length)
    (hcrc : streamField b (st + 40 + 8 * n) 16 ≠ (crc16 (streamBytes b (st + 40) n)).toNat) :
    parseBody bound b st n hdr = { hdr with rc := .checksumMismatch } := by
  rw [parseBody_of_whole hn hlen, if_pos hcrc]

theorem parseBody_of_end_ne (hn : n ≤ bound) (hlen : st + 64 + 8 * n ≤ b.length)
    (hcrc : streamField b (st + 40 + 8 * n) 16 = (crc16 (streamBytes b (st + 40) n)).toNat)
    (hend : streamField b (st + 56 + 8 * n) 8 ≠ 0) :
    parseBody bound b st n hdr = { hdr with rc := .invalidEndFrame } := by
  rw [parseBody_of_whole hn hlen, if_neg (not_not_intro hcrc), if_pos hend]

theorem parseBody_of_good (hn : n ≤ bound) (hlen : st + 64 + 8 * n ≤ b.length)
    (hcrc : streamField b (st + 40 + 8 * n) 16 = (crc16 (streamBytes b (st + 40) n)).toNat)
    (hend : streamField b (st + 56 + 8 * n) 8 = 0) :
    parseBody bound b st n hdr = { hdr with rc := .success, out := streamBytes b (st + 40) n } := by
  rw [parseBody_of_whole hn hlen, if_neg (not_not_intro hcrc), if_neg (not_not_intro hend)]

end Parser

/-! ### FRAME_PARSE (R185) -/

/-- An Emit without output never overflows (R99). -/
theorem ends_of_emit_nil {i : Instr} {s : State} {sofar full : Completion}
    (hx : exec i s = finish s (emit s sofar full)) (hout : full.out = []) :
    Ends i s full.rc full.res0 full.res1 full.res2 full.res3 [] := by
  have hemits := emits_of_finish hx
  rw [hout] at hemits
  exact hemits.2 (Nat.zero_le _)

/-- Settles O17: each exit of the parser is a case of `parsePacket` or `parseBody`; the failing ones have no output, so
their Emit ends in the parser's own result. -/
theorem frameParseResult : Obligations.FrameParseResult := by
  unfold Obligations.FrameParseResult
  refine ⟨decode_encode .frameParse, fun s => writerChecks_of rfl rfl rfl fun hx => onSrcBits_of hx fun b _ hx =>
    ⟨fun hnone => ?notFound, fun st hst => ⟨fun hshort => ?shortHeader, fun hheader => ?body⟩⟩⟩
  case notFound =>
    rw [parsePacket_of_no_start hnone] at hx
    exact ends_of_emit_nil hx rfl
  case shortHeader =>
    rw [parsePacket_of_short_header hst hshort] at hx
    exact ends_of_emit_nil hx rfl
  case body =>
    intro n ty fl len at_ p hty hfl hn hlen hat hp
    rw [← streamBytes_eq_map] at hp
    rw [parsePacket_of_header hst hheader] at hx
    subst hlen hty hfl hat hp hn
    refine ⟨fun hlong => ?badLength, fun hn hcut => ?cut, fun hn hwhole hcrc => ?checksum,
      fun hn hwhole hcrc hend => ?badEnd, fun hn hwhole hcrc hend => ?good⟩
    case badLength =>
      rw [parseBody_of_bound_lt hlong] at hx
      exact ends_of_emit_nil hx rfl
    case cut =>
      rw [parseBody_of_cut hn hcut] at hx
      exact ends_of_emit_nil hx rfl
    case checksum =>
      rw [parseBody_of_checksum_ne hn hwhole hcrc] at hx
      exact ends_of_emit_nil hx rfl
    case badEnd =>
      rw [parseBody_of_end_ne hn hwhole hcrc hend] at hx
      exact ends_of_emit_nil hx rfl
    case good =>
      rw [parseBody_of_good hn hwhole hcrc hend] at hx
      exact emits_of_finish hx

/-! ### The fields of a packet, read back from its stream (R110, R185) -/

/-- A field that stands in a stream after `x` is read as the number it was written from, modulo its width. -/
theorem streamField_of_prefix {b x : List Bool} {off w v : Nat} (hb : x ++ bitsMSB w v <+: b) (hoff : x.length = off) :
    streamField b off w = v % 2 ^ w := by
  obtain ⟨y, rfl⟩ := hb
  rw [streamField, List.append_assoc, List.drop_left' hoff, List.take_left' (bitsMSB_length w v), valMSB_bitsMSB]

theorem streamField_of_byte_prefix {b x : List Bool} {off : Nat} {d : Byte} (hb : x ++ byteBits d <+: b)
    (hoff : x.length = off) : streamField b off 8 = d.toNat :=
  (streamField_of_prefix hb hoff).trans (Nat.mod_eq_of_lt d.isLt)

/-- The bytes of a string that stands in a stream after `x` are read as the string. -/
theorem streamBytes_of_prefix {b x : List Bool} {off : Nat} {p : List Byte} (hb : x ++ bytesBits p <+: b)
    (hoff : x.length = off) : streamBytes b off p.length = p := by
  induction p generalizing x off with
  | nil => rfl
  | cons d p ih =>
    rw [bytesBits_cons, ← List.append_assoc] at hb
    have hd : streamField b off 8 = d.toNat := streamField_of_byte_prefix ((List.prefix_append _ _).trans hb) hoff
    have hrest : streamBytes b (off + 8) p.length = p := ih hb (by rw [List.length_append, hoff, byteBits_length])
    rw [List.length_cons, streamBytes, hd, hrest, BitVec.ofNat_toNat, BitVec.setWidth_eq]

section Packet
variable (t f : Byte) (p : List Byte)

@[simp] theorem packet_length : (packet t f p).length = 64 + 8 * p.length := by
  simp only [packet, List.length_append, byteBits_length, bitsMSB_length, bytesBits_length]
  omega

/-- The bits of a packet before its payload: START, TYPE, FLAGS and LENGTH (R110). -/
def packetHeader (n : Nat) : List Bool :=
  byteBits Config.startSentinel ++ byteBits t ++ byteBits f ++ bitsMSB 16 n

@[simp] theorem packetHeader_length (n : Nat) : (packetHeader t f n).length = 40 := by simp [packetHeader]

theorem packet_eq_header_append :
    packet t f p =
      packetHeader t f p.length ++ bytesBits p ++ bitsMSB 16 (crc16 p).toNat ++ byteBits Config.endSentinel := rfl

theorem packetHeader_prefix : packetHeader t f p.length <+: packet t f p := by simp [packet_eq_header_append]

/-- R189: the stream starts with 0xFF, so HUNT stops at 0. -/
theorem isFirstStart_packet : IsFirstStart (packet t f p) 0 := by
  have htake : (packet t f p).take 8 = byteBits Config.startSentinel := by
    simp only [packet, List.append_assoc]
    exact List.take_left' (byteBits_length _)
  exact ⟨fun k hk => by rw [Nat.zero_add]; exact (take_eight_eq_start_iff _).1 htake k hk,
    fun i hi => absurd hi (Nat.not_lt_zero i)⟩

theorem packet_type : streamField (packet t f p) 8 8 = t.toNat :=
  streamField_of_byte_prefix (x := byteBits Config.startSentinel) (by simp [packet]) (by simp)

theorem packet_flags : streamField (packet t f p) 16 8 = f.toNat :=
  streamField_of_byte_prefix (x := byteBits Config.startSentinel ++ byteBits t) (by simp [packet]) (by simp)

theorem packet_length_field : streamField (packet t f p) 24 16 = p.length % 2 ^ 16 :=
  streamField_of_prefix (packetHeader_prefix t f p) (by simp)

theorem packet_payload : streamBytes (packet t f p) 40 p.length = p :=
  streamBytes_of_prefix (x := packetHeader t f p.length) (by simp [packet_eq_header_append]) (by simp)

theorem packet_checksum : streamField (packet t f p) (40 + 8 * p.length) 16 = (crc16 p).toNat :=
  (streamField_of_prefix (x := packetHeader t f p.length ++ bytesBits p) (by simp [packet_eq_header_append])
    (by simp)).trans (Nat.mod_eq_of_lt (crc16 p).isLt)

theorem packet_end : streamField (packet t f p) (56 + 8 * p.length) 8 = 0 :=
  streamField_of_byte_prefix (x := packetHeader t f p.length ++ bytesBits p ++ bitsMSB 16 (crc16 p).toNat)
    (d := Config.endSentinel) (by simp [packet_eq_header_append]) (by simp; omega)

end Packet

/-- R189, of the codec: the parser finds a packet at the start of its own stream and answers its fields and payload. -/
theorem parsePacket_packet (t f : Byte) {p : List Byte} {bound : Nat} (hbound : p.length ≤ bound)
    (hmax : p.length ≤ 65535) :
    parsePacket bound (packet t f p) =
      { rc := .success, res0 := resWord t.toNat, res1 := resWord f.toNat, res2 := resWord p.length, res3 := 0, out := p } := by
  have hwhole : 0 + 64 + 8 * p.length ≤ (packet t f p).length := by simp
  have hlength : streamField (packet t f p) (0 + 24) 16 = p.length :=
    (packet_length_field t f p).trans (Nat.mod_eq_of_lt (Nat.lt_succ_of_le hmax))
  have hpayload : streamBytes (packet t f p) (0 + 40) p.length = p := packet_payload t f p
  have hcrc := packet_checksum t f p
  have hend := packet_end t f p
  rw [parsePacket_of_header (isFirstStart_packet t f p) (by omega), hlength,
    parseBody_of_good hbound hwhole (by rwa [hpayload, Nat.zero_add]) (by rwa [Nat.zero_add]), hpayload, headerCompletion,
    Nat.zero_add, Nat.zero_add, packet_type, packet_flags, hlength]
  rfl

/-! ### What follows from how an operation ends -/

section Ended
variable {i : Instr} {s t : State} {rc : ResultCode} {r0 r1 r2 r3 : Word} {out : List Byte}

/-- An operation answers one state, so the state it answered is the one that `Ends` names. -/
theorem completedAs_of_ends (hx : exec i s = .next t) (h : Ends i s rc r0 r1 r2 r3 out) :
    CompletedAs s t rc r0 r1 r2 r3 out := by
  obtain ⟨t', hx', hdone⟩ := h
  obtain rfl : t = t' := Host.Outcome.next.inj (hx.symm.trans hx')
  exact hdone

theorem rc_of_ends (hx : exec i s = .next t) (h : Ends i s rc r0 r1 r2 r3 out) : t.rc = rc :=
  (completedAs_of_ends hx h).1

/-- An operation that ended with SUCCESS did not end with another result code. -/
theorem not_ends_of_success (hx : exec i s = .next t) (hrc : t.rc = .success) (hne : rc ≠ .success) :
    ¬ Ends i s rc r0 r1 r2 r3 out :=
  fun h => hne ((rc_of_ends hx h).symm.trans hrc)

/-- An operation that ended with SUCCESS passed the common checks (R98). -/
theorem own_of_writerChecks {n : Nat} {own : Prop} (hx : exec i s = .next t) (hrc : t.rc = .success)
    (h : WriterChecks i s n own) : own := by
  obtain ⟨hsrc, hdst, hoverlap, hown⟩ := h
  have hfits : SrcFits s n := by_contra fun hn => not_ends_of_success hx hrc (by decide) (hsrc hn)
  have hdfits : DstFits s := by_contra fun hn => not_ends_of_success hx hrc (by decide) (hdst hfits hn)
  exact hown hfits hdfits (by_contra fun hn => not_ends_of_success hx hrc (by decide) (hoverlap hfits hdfits hn))

/-- An operation that ended with SUCCESS did not overflow its DST range (R99). -/
theorem completedAs_of_emits {o0 o1 o2 o3 : Word} (hx : exec i s = .next t) (hrc : t.rc = .success)
    (h : Emits i s o0 o1 o2 o3 rc r0 r1 r2 r3 out) : CompletedAs s t rc r0 r1 r2 r3 out := by
  obtain ⟨hover, hfull⟩ := h
  refine completedAs_of_ends hx (hfull (Nat.le_of_not_lt fun hlt => ?_))
  exact not_ends_of_success hx hrc (by decide) (hover hlt)

/-- The bytes an operation has written read back as its output (R65). -/
theorem memBytes_of_storesOutput (h : StoresOutput s t out) : memBytes t.mem s.dstAddr.toNat out.length = some out :=
  (memBytes_eq_some_iff _ _ _ _).2
    ⟨rfl, fun k hk => by rw [h, if_pos (by omega), Nat.add_sub_cancel_left]⟩

/-- A stream that an operation has written packed reads back as the stream (R68, R69). -/
theorem bitsIn_of_storesOutput {b : List Bool} (h : StoresOutput s t (packBits b)) :
    bitsIn t.mem s.dstAddr.toNat b.length = some b := by
  have hbytes := memBytes_of_storesOutput h
  rw [packBits_length] at hbytes
  rw [bitsIn, hbytes, Option.map_some, bytesBits_packBits, List.take_left]

end Ended

/-! ### The round trip (R189) -/

/-- A register whose bits 31:8 are 0 is its byte operand (R94). -/
theorem resWord_lowByte {w : Word} (h : w.extractLsb' 8 24 = 0) : resWord (lowByte w).toNat = w := by
  have hhigh : w.toNat / 2 ^ 8 % 2 ^ 24 = 0 := by
    simpa [BitVec.extractLsb'_toNat, Nat.shiftRight_eq_div_pow] using congrArg BitVec.toNat h
  have hlow : (lowByte w).toNat = w.toNat := by
    have hlt := w.isLt
    rw [lowByte_eq_extract, BitVec.extractLsb'_toNat, Nat.shiftRight_zero]
    omega
  rw [hlow, resWord_toNat]

/-- A FRAME_CREATE that ended with SUCCESS had byte operands and a payload that a LENGTH describes, and wrote the packet. -/
theorem frameCreate_of_success {s t : State} {p : List Byte} (hp : SrcBytesAre s s.srcLen.toNat p)
    (hx : exec .frameCreate s = .next t) (hrc : t.rc = .success) :
    s.arg0.extractLsb' 8 24 = 0 ∧ s.arg1.extractLsb' 8 24 = 0 ∧ p.length ≤ 65535
      ∧ t.res0 = resWord (64 + 8 * p.length)
      ∧ StoresOutput s t (packBits (packet (lowByte s.arg0) (lowByte s.arg1) p)) := by
  obtain ⟨hbadArg, hbadLength, hcreate⟩ := own_of_writerChecks hx hrc (frameCreateResult.2 s)
  obtain ⟨h0, h1⟩ : s.arg0.extractLsb' 8 24 = 0 ∧ s.arg1.extractLsb' 8 24 = 0 := by
    by_contra hn
    exact not_ends_of_success hx hrc (by decide) (hbadArg (not_and_or.1 hn))
  have hmax : s.srcLen.toNat ≤ 65535 :=
    Nat.le_of_not_lt fun hlt => not_ends_of_success hx hrc (by decide) (hbadLength h0 h1 hlt)
  obtain ⟨-, -, -, -, hres0, -, -, -, hout, -⟩ := completedAs_of_emits hx hrc ((hcreate h0 h1 hmax).2 p hp)
  rw [← hp.1, ← packet_lowByte] at hout
  rw [← hp.1] at hres0 hmax
  exact ⟨h0, h1, hmax, hres0, hout⟩

/-- FRAME_PARSE past the common checks, on a stream that is initialised: the parser's result, through Emit. -/
theorem exec_frameParse {u : State} {b : List Bool} (hb : bitsIn u.mem u.srcAddr.toNat u.srcLen.toNat = some b)
    (hsrc : SrcFits u ((u.srcLen.toNat + 7) / 8)) (hdst : DstFits u) (hapart : RangesApart u ((u.srcLen.toNat + 7) / 8)) :
    exec .frameParse u = finish u (emit u (parsePacket u.maxLen.toNat b) (parsePacket u.maxLen.toNat b)) := by
  have hcheck : commonCheck .frameParse u = none :=
    (commonCheck_eq_none_iff _ _).2 ⟨fun _ => hsrc, fun _ => hdst, fun _ _ => hapart⟩
  exact (exec_of_checked hcheck).trans (congrArg _ (withSrcBits_some _ hb))

/-- Settles O18: FRAME_CREATE's success leaves the packet's stream in buffer RAM (`frameCreate_of_success`), and the parser
answers its fields and payload (`parsePacket_packet`). -/
theorem frameRoundTrip : Obligations.FrameRoundTrip := by
  unfold Obligations.FrameRoundTrip
  intro s t u p hp hx hrc hmem haddr hlen hbound hcap hsrc hdst hapart
  obtain ⟨h0, h1, hmax, hres0, hout⟩ := frameCreate_of_success hp hx hrc
  have hbits : u.srcLen.toNat = 64 + 8 * p.length := by
    rw [hlen, hres0, resWord, BitVec.toNat_ofNat]
    omega
  have hstream : bitsIn u.mem u.srcAddr.toNat u.srcLen.toNat = some (packet (lowByte s.arg0) (lowByte s.arg1) p) := by
    have hread := bitsIn_of_storesOutput hout
    rwa [packet_length, ← hmem, ← haddr, ← hbits] at hread
  have hbytes : (u.srcLen.toNat + 7) / 8 = p.length + 8 := by omega
  have hparse := exec_frameParse hstream (by rwa [hbytes]) hdst (by rwa [hbytes])
  rw [parsePacket_packet _ _ hbound hmax, resWord_lowByte h0, resWord_lowByte h1] at hparse
  exact (emits_of_finish hparse).2 hcap

end Sys2Proof.Machine


/-! The chunker (43_chunker.md): the chunk records of a byte string, byte by byte, and the operation CHUNK (R200). -/

namespace Sys2Proof.Machine

/-! ### The chunk records (R118, R200) -/

/-- Chunk i holds the data from i·m on, up to its m bytes or the end of the data; no premise keeps i below the chunk count,
since past the end both sides are 0. -/
theorem chunkData_length (d : List Byte) (m i : Nat) :
    ((d.drop (i * m)).take m).length = min d.length ((i + 1) * m) - i * m := by
  rw [List.length_take, List.length_drop, Nat.succ_mul]
  omega

/-- The records of R200, each as its big-endian SEQ, TOTAL and LENGTH, its type and three 0 bytes, and its data. -/
theorem recordsBytes_chunksOf (m : Nat) (t : Byte) (d : List Byte) :
    recordsBytes (chunksOf m t d) =
      (List.range (chunkCount d.length m)).flatMap fun i =>
        beBytes 4 i ++ beBytes 4 (chunkCount d.length m) ++ beBytes 4 (min d.length ((i + 1) * m) - i * m)
          ++ [t, 0, 0, 0] ++ (d.drop (i * m)).take m := by
  simp only [recordsBytes, chunksOf, List.flatMap_map, recordBytes, chunkData_length]

/-! ### CHUNK (R200) -/

theorem performChunk_of_bad_arg {s : State} (h : s.arg0.extractLsb' 8 24 ≠ 0 ∨ s.cfgChunk = 0) :
    performChunk s = raiseRc .badArg := by
  by_cases h0 : field s.arg0 31 8 ≠ 0
  · exact if_pos h0
  · have hm : s.cfgChunk = 0 := h.resolve_left fun harg => h0 ((field_ne_zero s.arg0 31 8).2 harg)
    exact (if_neg h0).trans (if_pos (congrArg BitVec.toNat hm))

theorem performChunk_of_args {s : State} (h0 : s.arg0.extractLsb' 8 24 = 0) (hm : s.cfgChunk ≠ 0) :
    performChunk s =
      withSrcBytes s s.srcLen.toNat fun d =>
        emit s { rc := .success }
          { rc := .success, res0 := resWord (chunkCount s.srcLen.toNat s.cfgChunk.toNat)
            res1 := resWord (16 * chunkCount s.srcLen.toNat s.cfgChunk.toNat + s.srcLen.toNat)
            out := recordsBytes (chunksOf s.cfgChunk.toNat (lowByte s.arg0) d) } :=
  (if_neg fun h => (field_ne_zero s.arg0 31 8).1 h h0).trans (if_neg (BitVec.toNat_ne_iff_ne.2 hm))

/-- Settles O19: after the common checks BAD_ARG is decided before any read, and the output of the bytes read is their
records, which `recordsBytes_chunksOf` writes out. -/
theorem chunkResult : Obligations.ChunkResult := by
  unfold Obligations.ChunkResult
  refine ⟨decode_encode .chunk, fun s => writerChecks_of rfl rfl rfl fun hx =>
    ⟨fun h => ?badArg, fun h0 hm => ?split⟩⟩
  case badArg => exact ends_of_raise (hx.trans (congrArg _ (performChunk_of_bad_arg h)))
  case split =>
    refine onSrcBytes_of (hx.trans (congrArg _ (performChunk_of_args h0 hm))) fun d hlen hx => ?_
    rintro k rfl
    have hemits := emits_of_finish hx
    rw [recordsBytes_chunksOf, lowByte_eq_extract, hlen] at hemits
    exact hemits

end Sys2Proof.Machine


/-! LZ77 (44_lz77.md): the search and the greedy loop of the encoder (R215, R216), the replay loop of the decoder (R219), and
what LZ_COMPRESS, LZ_DECOMPRESS and COMPRESS_DATA do in each case of their rules. -/

namespace Sys2Proof.Machine

/-! ### The search (R215, R216) -/

/-- `runLength` counts the positions, up to the cap, at which both lists have the same byte. -/
theorem le_runLength_iff (cap l : Nat) (xs ys : List Byte) :
    l ≤ runLength cap xs ys ↔ l ≤ cap ∧ ∀ q < l, ∃ x, xs[q]? = some x ∧ ys[q]? = some x := by
  induction l generalizing cap xs ys with
  | zero => simp
  | succ l ih =>
    rw [Nat.forall_lt_succ_left]
    fun_cases runLength cap xs ys with
    | case1 => simp
    | case2 => simp
    | case3 => simp
    | case4 cap xs y ys => simp [ih]
    | case5 cap x xs y ys hne => simp [Ne.symm hne]

section Search
variable {d : List Byte} {i : Nat}

/-- The run of the candidate at j: how far the data from j on agrees with the data from i on. -/
def runAt (d : List Byte) (i j : Nat) : Nat := runLength Config.lzMaxLength (d.drop j) (d.drop i)

theorem considerCandidate_eq (d : List Byte) (i : Nat) (best : Nat × Nat) (j : Nat) :
    considerCandidate d i best j = if best.1 < runAt d i j then (runAt d i j, i - j) else best := rfl

theorem le_runAt_iff {j l : Nat} (hi : i ≤ d.length) :
    l ≤ runAt d i j ↔ l ≤ 255 ∧ i + l ≤ d.length ∧ ∀ q < l, d[j + q]? = d[i + q]? := by
  simp only [runAt, le_runLength_iff, List.getElem?_drop]
  refine and_congr_right fun _ => ⟨fun h => ⟨?_, fun q hq => ?_⟩, fun ⟨hl, h⟩ q hq => ?_⟩
  · cases l with
    | zero => exact hi
    | succ l =>
      obtain ⟨x, -, hx⟩ := h l l.lt_succ_self
      exact (List.getElem?_eq_some_iff.1 hx).1
  · obtain ⟨x, hj, hi⟩ := h q hq
    rw [hj, hi]
  · have hin : i + q < d.length := by omega
    exact ⟨d[i + q], (h q hq).trans (List.getElem?_eq_getElem hin), List.getElem?_eq_getElem hin⟩

/-- The run of a candidate is the one length that `AgreesFor` allows. -/
theorem agreesFor_iff {j l : Nat} (hi : i ≤ d.length) : AgreesFor d i j l ↔ runAt d i j = l := by
  have hle := fun l => le_runAt_iff (j := j) (l := l) hi
  constructor
  · rintro ⟨hcap, hend, hagree, hstop⟩
    have hreached : l ≤ runAt d i j := (hle l).2 ⟨hcap, hend, hagree⟩
    have hnext : ¬ l + 1 ≤ runAt d i j := fun h => by
      obtain ⟨hcap', hend', hagree'⟩ := (hle (l + 1)).1 h
      rcases hstop with hstop | hstop | hstop
      · omega
      · omega
      · exact hstop (hagree' l l.lt_succ_self)
    omega
  · rintro rfl
    obtain ⟨hcap, hend, hagree⟩ := (hle _).1 le_rfl
    refine ⟨hcap, hend, hagree, ?_⟩
    by_contra hgo
    obtain ⟨hbelow, hinside, hnext⟩ : runAt d i j ≠ 255 ∧ i + runAt d i j ≠ d.length
        ∧ d[j + runAt d i j]? = d[i + runAt d i j]? := by simpa only [not_or, not_not] using hgo
    exact Nat.not_succ_le_self _ ((hle _).2 ⟨by omega, by omega, Nat.forall_lt_succ_right.2 ⟨hagree, hnext⟩⟩)

/-- The search of R215 once every candidate below m is considered: no run is longer than the best, and the best is the
farthest candidate of its run. -/
def SearchedBelow (d : List Byte) (i m : Nat) (best : Nat × Nat) : Prop :=
  (∀ j < m, i ≤ j + Config.lzMaxDistance → runAt d i j ≤ best.1)
    ∧ (best.1 ≠ 0 → ∃ j < m, i ≤ j + Config.lzMaxDistance ∧ best = (runAt d i j, i - j)
        ∧ ∀ j' < j, i ≤ j' + Config.lzMaxDistance → runAt d i j' < best.1)
    ∧ (best.1 = 0 → best.2 = 0)

theorem SearchedBelow.considerCandidate {m : Nat} {best : Nat × Nat} (h : SearchedBelow d i m best)
    (hm : i ≤ m + Config.lzMaxDistance) : SearchedBelow d i (m + 1) (considerCandidate d i best m) := by
  obtain ⟨hmax, hfound, hnone⟩ := h
  rw [considerCandidate_eq]
  split
  · next hlonger =>
    refine ⟨fun j hj hw => ?_, fun _ => ⟨m, m.lt_succ_self, hm, rfl, fun j hj hw => ?_⟩, fun h0 => ?_⟩
    · rcases Nat.lt_succ_iff_lt_or_eq.1 hj with hj | rfl
      · exact (hmax j hj hw).trans hlonger.le
      · exact le_rfl
    · exact (hmax j hj hw).trans_lt hlonger
    · exact absurd h0 (Nat.ne_zero_of_lt hlonger)
  · next hshorter =>
    refine ⟨fun j hj hw => ?_, fun hne => ?_, hnone⟩
    · rcases Nat.lt_succ_iff_lt_or_eq.1 hj with hj | rfl
      · exact hmax j hj hw
      · exact Nat.le_of_not_lt hshorter
    · obtain ⟨j, hj, hfar⟩ := hfound hne
      exact ⟨j, hj.trans m.lt_succ_self, hfar⟩

/-- The fold over the window's first n candidates, which come in rising order from the farthest on (R216). -/
theorem searchedBelow_foldl (d : List Byte) (i n : Nat) :
    SearchedBelow d i (i - Config.lzMaxDistance + n)
      ((List.range' (i - Config.lzMaxDistance) n).foldl (considerCandidate d i) (0, 0)) := by
  induction n with
  | zero => exact ⟨fun j hj hw => by omega, fun h => absurd rfl h, fun _ => rfl⟩
  | succ n ih =>
    rw [List.range'_1_concat, List.foldl_concat, ← Nat.add_assoc]
    exact ih.considerCandidate (Nat.le_add_of_sub_le (Nat.le_add_right _ n))

theorem searchedBelow_bestMatch (d : List Byte) (i : Nat) : SearchedBelow d i i (bestMatch d i) := by
  have h := searchedBelow_foldl d i (i - (i - Config.lzMaxDistance))
  rwa [Nat.add_sub_cancel' (Nat.sub_le i _)] at h

/-- The search answers bestLen and bestDist of R215. -/
theorem isBestMatch_bestMatch (hi : i ≤ d.length) : IsBestMatch d i (bestMatch d i).1 (bestMatch d i).2 := by
  obtain ⟨hmax, hfound, hnone⟩ := searchedBelow_bestMatch d i
  refine ⟨fun j l hj hw hagree => ?_, fun hne => ?_, hnone⟩
  · rw [← (agreesFor_iff hi).1 hagree]
    exact hmax j hj hw
  · obtain ⟨j, hj, hw, hbest, hfar⟩ := hfound hne
    rw [hbest] at hfar ⊢
    have hback : i - (i - j) = j := Nat.sub_sub_self hj.le
    have hdist : i - j ≤ Config.lzMaxDistance := Nat.sub_le_iff_le_add'.2 hw
    refine ⟨Nat.sub_pos_of_lt hj, hdist, Nat.sub_le i j, ?_, fun j' l hj' hw' hagree => ?_⟩
    · rw [hback]
      exact (agreesFor_iff hi).2 rfl
    · rw [hback] at hj'
      rw [← (agreesFor_iff hi).1 hagree]
      exact hfar j' hj' hw'

/-! ### The greedy loop (R215) -/

/-- The loop builds the greedy tokens, given a turn for each byte that is left. -/
theorem greedyFrom_tokensFrom (d : List Byte) (fuel i : Nat) (hi : i ≤ d.length) (hfuel : d.length ≤ i + fuel) :
    GreedyFrom d i (tokensFrom d fuel i) := by
  induction fuel generalizing i with
  | zero => exact hfuel
  | succ fuel ih =>
    have hbest := isBestMatch_bestMatch hi
    rw [tokensFrom]
    generalize bestMatch d i = best at hbest ⊢
    split
    · next hend => exact List.drop_eq_nil_iff.1 hend
    · next b rest hdrop =>
      have hb : d[i]? = some b := by rw [← List.head?_drop, hdrop, List.head?_cons]
      have hlt : i < d.length := (List.getElem?_eq_some_iff.1 hb).1
      simp only
      split
      · next hlong =>
        have hlen : 3 ≤ best.1 := hlong
        obtain ⟨-, -, -, ⟨-, hend, -⟩, -⟩ := hbest.2.1 (by omega)
        exact ⟨hlt, hbest, hlen, ih _ hend (by omega)⟩
      · next hshort => exact ⟨hlt, hb, ⟨_, _, hbest, Nat.lt_of_not_le hshort⟩, ih _ hlt (by omega)⟩

end Search

theorem greedyFrom_lzTokens (d : List Byte) : GreedyFrom d 0 (lzTokens d) :=
  greedyFrom_tokensFrom d d.length 0 (Nat.zero_le _) (Nat.zero_add _).ge

/-! ### Copying (R219) -/

/-- `copyBytes` copies byte by byte, each byte read from the output so far. -/
theorem isCopyOf_copyBytes {dist : Nat} (len : Nat) {out : List Byte} (hfar : 1 ≤ dist) (hnear : dist ≤ out.length) :
    IsCopyOf out len dist (copyBytes len dist out) := by
  induction len generalizing out with
  | zero => exact ⟨rfl, fun q _ => rfl, fun q hq => absurd hq (Nat.not_lt_zero q)⟩
  | succ len ih =>
    have hsrc : out.length - dist < out.length := by omega
    have hgrown : ∀ x : Byte, (out ++ [x]).length = out.length + 1 := fun x => by simp
    obtain ⟨hlen, hkeep, hcopy⟩ := ih (out := out ++ [out.getD (out.length - dist) 0]) (by rw [hgrown]; omega)
    rw [hgrown] at hlen hkeep hcopy
    rw [copyBytes]
    refine ⟨by omega, fun q hq => ?_, fun q hq => ?_⟩
    · rw [hkeep q (by omega), List.getElem?_append_left hq]
    · cases q with
      | zero =>
        rw [Nat.add_zero, hkeep _ (by omega), hkeep _ (by omega), List.getElem?_concat_length,
          List.getElem?_append_left hsrc, List.getD_eq_getElem _ _ hsrc, List.getElem?_eq_getElem hsrc]
      | succ q =>
        rw [show out.length + (q + 1) = out.length + 1 + q by omega]
        exact hcopy q (Nat.lt_of_succ_lt_succ hq)

/-- A copy at a distance that exists is determined: each byte by the ones before it. -/
theorem IsCopyOf.unique {out x y : List Byte} {len dist : Nat} (hfar : 1 ≤ dist) (hnear : dist ≤ out.length)
    (hx : IsCopyOf out len dist x)
    (hy : IsCopyOf out len dist y) : x = y := by
  obtain ⟨hxlen, hxkeep, hxcopy⟩ := hx
  obtain ⟨hylen, hykeep, hycopy⟩ := hy
  apply List.ext_getElem?
  intro n
  induction n using Nat.strongRecOn with
  | ind n ih =>
    rcases Nat.lt_or_ge n out.length with hold | hnew
    · rw [hxkeep n hold, hykeep n hold]
    · obtain ⟨q, rfl⟩ := Nat.exists_eq_add_of_le hnew
      rcases Nat.lt_or_ge q len with hq | hq
      · rw [hxcopy q hq, hycopy q hq]
        exact ih _ (by omega)
      · rw [List.getElem?_eq_none (by omega), List.getElem?_eq_none (by omega)]

/-- The data up to the end of a match is a copy of the data before it. -/
theorem AgreesFor.isCopyOf_take {d : List Byte} {i len dist : Nat} (hdist : dist ≤ i) (h : AgreesFor d i (i - dist) len) :
    IsCopyOf (d.take i) len dist (d.take (i + len)) := by
  obtain ⟨-, hend, hagree, -⟩ := h
  have hlen : (d.take i).length = i := List.length_take_of_le (by omega)
  rw [IsCopyOf, hlen]
  refine ⟨List.length_take_of_le hend, fun q hq => ?_, fun q hq => ?_⟩
  · rw [List.getElem?_take_of_lt (by omega), List.getElem?_take_of_lt hq]
  · rw [List.getElem?_take_of_lt (by omega), List.getElem?_take_of_lt (by omega), ← hagree q hq,
      Nat.sub_add_comm hdist]

/-! ### The replay loop (R219) -/

section Replay
variable {b : List Bool} {k fuel t : Nat} {out : List Byte}

theorem drop_eq_cons_of_getElem? {x : Bool} (h : b[k]? = some x) : b.drop k = x :: b.drop (k + 1) := by
  obtain ⟨hk, rfl⟩ := List.getElem?_eq_some_iff.1 h
  exact List.drop_eq_getElem_cons hk

theorem replayFrom_at_end (h : b.length ≤ k) : replayFrom fuel (b.drop k) k out t = .done out t := by
  rw [List.drop_eq_nil_of_le h]
  cases fuel <;> rfl

/-- A turn of the loop at a literal's tag. -/
theorem replayFrom_at_literal (tag : b[k]? = some false) :
    replayFrom (fuel + 1) (b.drop k) k out t =
      if b.length < k + 9 then .malformed k
      else replayFrom fuel (b.drop (k + 9)) (k + 9) (out ++ [BitVec.ofNat 8 (valMSB (slice b (k + 1) 8))]) (t + 1) := by
  have hshort : (b.drop (k + 1)).length < 8 ↔ b.length < k + 9 := by rw [List.length_drop]; omega
  rw [drop_eq_cons_of_getElem? tag, replayFrom, List.drop_drop]
  exact if_congr hshort rfl rfl

/-- A turn of the loop at a match's tag. -/
theorem replayFrom_at_match (tag : b[k]? = some true) :
    replayFrom (fuel + 1) (b.drop k) k out t =
      if b.length < k + 21 then .malformed k
      else if valMSB (slice b (k + 9) 12) = 0 ∨ out.length < valMSB (slice b (k + 9) 12) then .malformed k
      else replayFrom fuel (b.drop (k + 21)) (k + 21)
        (copyBytes (valMSB (slice b (k + 1) 8)) (valMSB (slice b (k + 9) 12)) out) (t + 1) := by
  have hshort : (b.drop (k + 1)).length < 20 ↔ b.length < k + 21 := by rw [List.length_drop]; omega
  rw [drop_eq_cons_of_getElem? tag, replayFrom, List.drop_drop, List.drop_drop]
  exact if_congr hshort rfl rfl

/-- A stream that has a bit at k leaves the loop a turn. -/
theorem exists_fuel_eq_succ {x : Bool} (tag : b[k]? = some x) (hfuel : b.length ≤ k + fuel) :
    ∃ fuel', fuel = fuel' + 1 := by
  have hk := (List.getElem?_eq_some_iff.1 tag).1
  exact Nat.exists_eq_add_one.2 (by omega)

/-- The loop answers what the relation allows, given a turn for each bit that is left. -/
theorem replayFrom_of_replaysTo {r : Replay} (h : ReplaysTo b k out t r) (hfuel : b.length ≤ k + fuel) :
    replayFrom fuel (b.drop k) k out t = r := by
  induction h generalizing fuel with
  | stop hk => exact replayFrom_at_end hk
  | literal tag whole _ ih =>
    obtain ⟨fuel, rfl⟩ := exists_fuel_eq_succ tag hfuel
    rw [replayFrom_at_literal tag, if_neg (Nat.not_lt.2 whole)]
    exact ih (by omega)
  | partialLiteral tag short =>
    obtain ⟨fuel, rfl⟩ := exists_fuel_eq_succ tag hfuel
    rw [replayFrom_at_literal tag, if_pos short]
  | partialMatch tag short =>
    obtain ⟨fuel, rfl⟩ := exists_fuel_eq_succ tag hfuel
    rw [replayFrom_at_match tag, if_pos short]
  | badDistance tag whole bad =>
    obtain ⟨fuel, rfl⟩ := exists_fuel_eq_succ tag hfuel
    rw [replayFrom_at_match tag, if_neg (Nat.not_lt.2 whole), if_pos bad]
  | copy tag whole far near copied _ ih =>
    obtain ⟨fuel, rfl⟩ := exists_fuel_eq_succ tag hfuel
    rw [replayFrom_at_match tag, if_neg (Nat.not_lt.2 whole), if_neg (by omega),
      (isCopyOf_copyBytes _ far near).unique far near copied]
    exact ih (by omega)

/-- The decoding loop of R219 ends on every stream: each token is whole, cut short or malformed. -/
theorem exists_replaysTo (b : List Bool) (k : Nat) (out : List Byte) (t : Nat) : ∃ r, ReplaysTo b k out t r := by
  induction hn : b.length - k using Nat.strongRecOn generalizing k out t with
  | ind n ih =>
    subst hn
    cases tag : b[k]? with
    | none => exact ⟨_, .stop (List.getElem?_eq_none_iff.1 tag)⟩
    | some x =>
      have hk : k < b.length := (List.getElem?_eq_some_iff.1 tag).1
      cases x with
      | false =>
        rcases Nat.lt_or_ge b.length (k + 9) with short | whole
        · exact ⟨_, .partialLiteral tag short⟩
        · obtain ⟨r, rest⟩ := ih _ (by omega) (k + 9) _ _ rfl
          exact ⟨r, .literal tag whole rest⟩
      | true =>
        rcases Nat.lt_or_ge b.length (k + 21) with short | whole
        · exact ⟨_, .partialMatch tag short⟩
        · by_cases bad : valMSB (slice b (k + 9) 12) = 0 ∨ out.length < valMSB (slice b (k + 9) 12)
          · exact ⟨_, .badDistance tag whole bad⟩
          · obtain ⟨hfar, hnear⟩ := not_or.1 bad
            have far := Nat.one_le_iff_ne_zero.2 hfar
            have near := Nat.le_of_not_lt hnear
            obtain ⟨r, rest⟩ := ih _ (by omega) (k + 21) _ _ rfl
            exact ⟨r, .copy tag whole far near (isCopyOf_copyBytes _ far near) rest⟩

theorem lzReplay_of_replaysTo {r : Replay} (h : ReplaysTo b 0 [] 0 r) : lzReplay b = r :=
  replayFrom_of_replaysTo h (Nat.zero_add _).ge

/-- `lzReplay` answers r exactly where the loop of R219 does. -/
theorem lzReplay_eq_iff (b : List Bool) (r : Replay) : lzReplay b = r ↔ ReplaysTo b 0 [] 0 r := by
  refine ⟨?_, lzReplay_of_replaysTo⟩
  rintro rfl
  obtain ⟨r, h⟩ := exists_replaysTo b 0 [] 0
  rwa [lzReplay_of_replaysTo h]

end Replay

/-! ### Token streams (R218, R221) -/

theorem lzSer_cons (tok : LzToken) (ts : List LzToken) : lzSer (tok :: ts) = tokenBits tok ++ lzSer ts := rfl

theorem lzSer_literal (x : Byte) (ts : List LzToken) :
    lzSer (.literal x :: ts) = [false] ++ bitsMSB 8 x.toNat ++ lzSer ts := rfl

theorem lzSer_copy (len dist : Nat) (ts : List LzToken) :
    lzSer (.copy len dist :: ts) = [true] ++ bitsMSB 8 len ++ bitsMSB 12 dist ++ lzSer ts := rfl

/-- Replaying the serialised greedy tokens from position i on extends the data before i to the whole data, wherever in the
stream they stand. -/
theorem replaysTo_of_greedyFrom {d : List Byte} {i : Nat} {ts : List LzToken} (h : GreedyFrom d i ts) (pre : List Bool)
    (t : Nat) : ReplaysTo (pre ++ lzSer ts) pre.length (d.take i) t (.done d (t + ts.length)) := by
  induction ts generalizing i pre t with
  | nil =>
    rw [List.take_of_length_le h]
    exact .stop (by simp [lzSer])
  | cons tok ts ih =>
    cases tok with
    | literal x =>
      obtain ⟨-, hx, -, hrest⟩ := h
      have hbyte : valMSB (slice (pre ++ lzSer (.literal x :: ts)) (pre.length + 1) 8) = x.toNat :=
        streamField_of_byte_prefix (x := pre ++ [false]) (by simp [lzSer_literal, byteBits]) (by simp)
      refine .literal (by simp [lzSer_literal]) (by simp [lzSer_literal]) ?_
      have hnext := ih hrest (pre ++ tokenBits (.literal x)) (t + 1)
      rw [List.take_add_one, hx] at hnext
      rw [hbyte, BitVec.ofNat_toNat, BitVec.setWidth_eq]
      simpa [lzSer_cons, tokenBits, Nat.add_assoc, Nat.add_comm 1] using hnext
    | copy len dist =>
      obtain ⟨-, ⟨-, hfound, -⟩, hlong, hrest⟩ := h
      obtain ⟨hfar, hwindow, hnear, hagree, -⟩ := hfound (by omega)
      have hlen : valMSB (slice (pre ++ lzSer (.copy len dist :: ts)) (pre.length + 1) 8) = len :=
        (streamField_of_prefix (x := pre ++ [true]) (by simp [lzSer_copy]) (by simp)).trans
          (Nat.mod_eq_of_lt (Nat.lt_succ_of_le hagree.1))
      have hdist : valMSB (slice (pre ++ lzSer (.copy len dist :: ts)) (pre.length + 9) 12) = dist :=
        (streamField_of_prefix (x := pre ++ [true] ++ bitsMSB 8 len) (by simp [lzSer_copy]) (by simp)).trans
          (Nat.mod_eq_of_lt (Nat.lt_succ_of_le hwindow))
      have hout : (d.take i).length = i := List.length_take_of_le ((Nat.le_add_right i len).trans hagree.2.1)
      refine .copy (out' := d.take (i + len)) (by simp [lzSer_copy]) (by simp [lzSer_copy]; omega) (by rwa [hdist])
        (by rwa [hdist, hout]) ?_ ?_
      · rw [hlen, hdist]
        exact hagree.isCopyOf_take hnear
      · have hnext := ih hrest (pre ++ tokenBits (.copy len dist)) (t + 1)
        simpa [lzSer_cons, tokenBits, Nat.add_assoc, Nat.add_comm 1] using hnext

/-- R221, of the codec: replaying the serialised tokens of a byte string gives the string and the number of tokens. -/
theorem lzReplay_lzSer_lzTokens (d : List Byte) : lzReplay (lzSer (lzTokens d)) = .done d (lzTokens d).length := by
  have h := replaysTo_of_greedyFrom (greedyFrom_lzTokens d) [] 0
  rw [List.nil_append, Nat.zero_add] at h
  exact lzReplay_of_replaysTo h

/-! ### LZ_COMPRESS (R220) -/

/-- Settles O24: the tokens are the greedy ones (`greedyFrom_lzTokens`), and behind the common checks the output is their
packed stream, whose length counts 9 bits a literal and 21 a match (`lzSer_length`). -/
theorem lzCompressResult : Obligations.LzCompressResult := by
  unfold Obligations.LzCompressResult
  refine ⟨decode_encode .lzCompress, greedyFrom_lzTokens, ⟨rfl, lzSer_literal, lzSer_copy⟩, lzSer_length,
    fun s => writerChecks_of rfl rfl rfl fun hx => onSrcBytes_of hx fun d _ hx => ?_⟩
  rw [← lzSer_length, ← List.countP_eq_length_filter]
  exact emits_of_finish hx

/-! ### LZ_DECOMPRESS (R222) -/

/-- Settles O25: the replay is the loop of R219 (`lzReplay_eq_iff`), and it is decided before Emit. -/
theorem lzDecompressResult : Obligations.LzDecompressResult := by
  unfold Obligations.LzDecompressResult
  refine ⟨decode_encode .lzDecompress, lzReplay_eq_iff, fun s => writerChecks_of rfl rfl rfl fun hx =>
    onSrcBits_of hx fun b _ hx => ⟨fun k hk => ?malformed, fun out n hdone => ?done⟩⟩
  case malformed =>
    rw [hk] at hx
    exact ends_of_finish hx
  case done =>
    rw [hdone] at hx
    exact emits_of_finish hx

/-! ### The round trip (R221) -/

/-- An LZ_COMPRESS that ended with SUCCESS wrote the stream, whose length RES0 holds: within the buffer sizes of R9 the
stream has less than 2^32 bits, since its bytes fit the buffer. -/
theorem lzCompress_of_success {s t : State} {d : List Byte} (hsize : BufferSizeLegal s)
    (hd : SrcBytesAre s s.srcLen.toNat d) (hx : exec .lzCompress s = .next t) (hrc : t.rc = .success) :
    t.res0.toNat = (lzSer (lzTokens d)).length ∧ t.res1 = BitVec.ofNat 32 (lzTokens d).length
      ∧ StoresOutput s t (packBits (lzSer (lzTokens d))) := by
  obtain ⟨-, -, -, -, hresult⟩ := lzCompressResult
  obtain ⟨hsrc, hdst, hoverlap, hown⟩ := hresult s
  obtain ⟨hfits, hread⟩ := own_of_writerChecks (own := DstFits s ∧ _) hx hrc
    ⟨hsrc, hdst, hoverlap, fun hs hd ha => ⟨hd, hown hs hd ha⟩⟩
  have hemits := hread.2 d hd
  have hcap : (packBits (lzSer (lzTokens d))).length ≤ s.dstCap.toNat :=
    Nat.le_of_not_lt fun hlt => not_ends_of_success hx hrc (by decide) (hemits.1 hlt)
  obtain ⟨-, -, -, -, hres0, hres1, -, -, hout, -⟩ := completedAs_of_emits hx hrc hemits
  rw [← lzSer_length] at hres0
  rw [packBits_length, bytesOfBits] at hcap
  have hbits : (lzSer (lzTokens d)).length < 2 ^ 32 := by
    have hmax := hsize.2
    omega
  exact ⟨by rw [hres0, BitVec.toNat_ofNat, Nat.mod_eq_of_lt hbits], hres1, hout⟩

/-- Settles O23: LZ_COMPRESS's success leaves the stream in buffer RAM (`lzCompress_of_success`), and replaying it gives the
data back (`lzReplay_lzSer_lzTokens`). -/
theorem lzRoundTrip : Obligations.LzRoundTrip := by
  unfold Obligations.LzRoundTrip
  refine ⟨lzReplay_lzSer_lzTokens, fun s t u d hsize hd hx hrc hmem haddr hlen hcap hsrc hdst hapart => ?_⟩
  obtain ⟨hres0, hres1, hout⟩ := lzCompress_of_success hsize hd hx hrc
  have hstream : SrcBitsAre u u.srcLen.toNat (lzSer (lzTokens d)) := by
    rw [hlen, hres0, SrcBitsAre, ← bitsIn_eq_some_iff, hmem, haddr]
    exact bitsIn_of_storesOutput hout
  rw [← hlen] at hsrc hapart
  obtain ⟨-, -, hresult⟩ := lzDecompressResult
  obtain ⟨-, -, -, hown⟩ := hresult u
  obtain ⟨-, hdone⟩ := (hown hsrc hdst hapart).2 _ hstream
  rw [hres1]
  exact (hdone d _ (lzReplay_lzSer_lzTokens d)).2 hcap

/-! ### COMPRESS_DATA (R224) -/

/-- The uncompressed outcome, through Emit. -/
theorem emits_of_emitPlain {i : Instr} {s : State} {d : List Byte} {reason streamBits : Nat}
    (hx : exec i s = finish s (emitPlain s d reason streamBits)) :
    Emits i s 0 0 0 (BitVec.ofNat 32 streamBits) .compressionNotBeneficial 0 (BitVec.ofNat 32 (8 * d.length))
      (BitVec.ofNat 32 reason) (BitVec.ofNat 32 streamBits) d :=
  emits_of_finish hx

/-- Settles O26: after the read the enable, the 100 bytes and the strict comparison with 8n bits decide in turn. -/
theorem compressDataResult : Obligations.CompressDataResult := by
  unfold Obligations.CompressDataResult
  refine ⟨decode_encode .compressData, fun s => writerChecks_of rfl rfl rfl fun hx => onSrcBytes_of hx fun d hlen hx => ?_⟩
  rintro b bits8 bits rfl rfl rfl
  rw [← hlen]
  refine ⟨fun hen => ?disabled, fun hen hshort => ?short, fun hen hlong hsmaller => ?compressed,
    fun hen hlong hlarger => ?larger⟩
  case disabled =>
    rw [if_pos hen] at hx
    exact emits_of_emitPlain hx
  case short =>
    rw [if_neg (ne_false_of_eq_true hen), if_pos hshort] at hx
    exact emits_of_emitPlain hx
  case compressed =>
    rw [if_neg (ne_false_of_eq_true hen), if_neg (Nat.not_lt.2 hlong), if_pos hsmaller] at hx
    exact emits_of_finish hx
  case larger =>
    rw [if_neg (ne_false_of_eq_true hen), if_neg (Nat.not_lt.2 hlong), if_neg (Nat.not_lt.2 hlarger)] at hx
    exact emits_of_emitPlain hx

end Sys2Proof.Machine


/-! The parity-shard FEC (45_fec.md): what FEC_ENCODE and FEC_DECODE do in each case of their rules (R241, R242), and the
decode of an untampered block and of one with a tampered data byte (R243). -/

namespace Sys2Proof.Machine

/-! ### The parity bytes (R240) -/

@[simp] theorem parityBytes_length (d : List Byte) (p : Nat) : (parityBytes d p).length = p := by simp [parityBytes]

theorem parityBytes_eq_map (d : List Byte) (p : Nat) : parityBytes d p = (List.range p).map (foldOf d) :=
  List.map_congr_left fun j _ => fecFold_eq_foldOf d j

theorem foldOf_cons (x : Byte) (d : List Byte) (j : Nat) :
    foldOf (x :: d) j = x ^^^ BitVec.ofNat 8 (j + 1) ^^^ foldOf d j := rfl

/-- A change of one byte goes through to every fold. -/
theorem foldOf_modify_xor {d : List Byte} {i : Nat} (hi : i < d.length) (x : Byte) (j : Nat) :
    foldOf (d.modify i (· ^^^ x)) j = foldOf d j ^^^ x := by
  induction d generalizing i with
  | nil => exact absurd hi (Nat.not_lt_zero i)
  | cons y d ih =>
    cases i with
    | zero =>
      rw [List.modify_zero_cons, foldOf_cons, foldOf_cons]
      ac_rfl
    | succ i =>
      rw [List.modify_succ_cons, foldOf_cons, foldOf_cons, ih (Nat.lt_of_succ_lt_succ hi)]
      ac_rfl

/-! ### FEC_ENCODE (R241) -/

/-- Settles O28: behind the common checks the output is the data and its parity bytes, which `parityBytes_eq_map` writes
out. -/
theorem fecEncodeResult : Obligations.FecEncodeResult := by
  unfold Obligations.FecEncodeResult
  refine ⟨decode_encode .fecEncode, fun s => writerChecks_of rfl rfl rfl fun hx => onSrcBytes_of hx fun d _ hx => ?_⟩
  have hcount : s.parityShards.setWidth 32 = resWord (parityCount s) := by
    rw [resWord, BitVec.ofNat_toNat]
  rw [← parityBytes_eq_map, hcount]
  exact emits_of_finish hx

/-! ### The shards of a block, in order (R242) -/

/-- A shard whose fold agrees with its parity byte changes nothing. -/
theorem fecShard_of_delta_eq_zero {d : List Byte} {j : Nat} {p : Byte} (e : Nat) (h : foldOf d j ^^^ p = 0) :
    fecShard (d, e) j p = (d, e) := by
  rw [← fecFold_eq_foldOf] at h
  exact if_pos h

/-- A shard whose fold disagrees counts an error and patches the data with the delta. -/
theorem fecShard_of_delta_ne_zero {d : List Byte} {j : Nat} {p : Byte} (e : Nat) (h : foldOf d j ^^^ p ≠ 0) :
    fecShard (d, e) j p = (fecPatch d (foldOf d j ^^^ p), e + 1) := by
  rw [← fecFold_eq_foldOf] at h ⊢
  exact if_neg h

theorem fecShard_length (de : List Byte × Nat) (j : Nat) (p : Byte) : (fecShard de j p).1.length = de.1.length := by
  rw [fecShard]
  split
  · rfl
  · exact fecPatch_length _ _

/-- The shards keep the length of the data. -/
theorem fecShards_length (de : List Byte × Nat) (j : Nat) (ps : List Byte) :
    (fecShards de j ps).1.length = de.1.length := by
  induction ps generalizing de j with
  | nil => rfl
  | cons p ps ih => rw [fecShards, ih, fecShard_length]

theorem fecShards_concat (de : List Byte × Nat) (j : Nat) (ps : List Byte) (p : Byte) :
    fecShards de j (ps ++ [p]) = fecShard (fecShards de j ps) (j + ps.length) p := by
  induction ps generalizing de j with
  | nil => rfl
  | cons q ps ih => rw [List.cons_append, fecShards, ih, fecShards, List.length_cons, Nat.add_right_comm, Nat.add_assoc]

/-- Data and error counts that follow R242 shard by shard are what `fecShards` has computed before each shard. -/
theorem fecShards_take_eq {d p : List Byte} {n m : Nat} {ds : Nat → List Byte} {es : Nat → Nat} {delta : Nat → Byte}
    (hn : d.length = n) (hm : p.length = m) (hds : ds 0 = d) (hes : es 0 = 0)
    (hdelta : ∀ j, j < m → delta j = foldOf (ds j) j ^^^ p.getD j 0)
    (hzero : ∀ j, j < m → delta j = 0 → ds (j + 1) = ds j ∧ es (j + 1) = es j)
    (hpatch : ∀ j, j < m → delta j ≠ 0 → es (j + 1) = es j + 1
      ∧ ds (j + 1) = if n = 0 then ds j else (ds j).modify ((delta j).toNat % n) (· ^^^ delta j))
    {j : Nat} (hj : j ≤ m) : fecShards (d, 0) 0 (p.take j) = (ds j, es j) := by
  induction j with
  | zero => rw [hes, hds]; rfl
  | succ j ih =>
    have hlt : j < m := hj
    have hbefore := ih hlt.le
    have hlen : (ds j).length = n := by
      have hkeep := fecShards_length (d, 0) 0 (p.take j)
      rwa [hbefore, hn] at hkeep
    have hjp : j < p.length := hm ▸ hlt
    have hd := hdelta j hlt
    rw [List.getD_eq_getElem _ _ hjp] at hd
    rw [List.take_succ_eq_append_getElem hjp, fecShards_concat, hbefore, Nat.zero_add, List.length_take_of_le hjp.le]
    by_cases h0 : delta j = 0
    · obtain ⟨hdata, hcount⟩ := hzero j hlt h0
      rw [fecShard_of_delta_eq_zero _ (hd ▸ h0), hdata, hcount]
    · obtain ⟨hcount, hdata⟩ := hpatch j hlt h0
      rw [fecShard_of_delta_ne_zero _ (hd ▸ h0), ← hd, fecPatch_eq_modify, hlen, hdata, hcount]

/-! ### FEC_DECODE (R242) -/

/-- The completion where 2e ≤ P. -/
theorem fecDecodeResult_of_budget {d p out : List Byte} {e : Nat} (hshards : fecShards (d, 0) 0 p = (out, e))
    (h : 2 * e ≤ p.length) :
    fecDecodeResult d p =
      { rc := .success, res0 := resWord e, res1 := 1, res2 := resWord d.length, out := out } := by
  simp [fecDecodeResult, hshards, h]

/-- The completion where the errors exceed the budget. -/
theorem fecDecodeResult_of_excess {d p out : List Byte} {e : Nat} (hshards : fecShards (d, 0) 0 p = (out, e))
    (h : p.length < 2 * e) :
    fecDecodeResult d p =
      { rc := .fecUncorrectable, res0 := resWord e, res1 := 0, res2 := resWord d.length, out := out } := by
  simp [fecDecodeResult, hshards, Nat.not_le.2 h]

theorem performFecDecode_of_short {s : State} (h : s.srcLen.toNat < s.parityShards.toNat) :
    performFecDecode s = raiseRc .badArg := if_pos h

theorem performFecDecode_of_block {s : State} (h : s.parityShards.toNat ≤ s.srcLen.toNat) :
    performFecDecode s =
      withSrcBytes s s.srcLen.toNat fun b =>
        emit s { rc := .success }
          (fecDecodeResult (b.take (s.srcLen.toNat - s.parityShards.toNat))
            (b.drop (s.srcLen.toNat - s.parityShards.toNat))) := if_neg (Nat.not_lt.2 h)

/-- Settles O29: a block shorter than its parity is refused before the read; otherwise the sequences of the statement are
what the shards compute (`fecShards_take_eq`), and the error budget decides the completion. -/
theorem Fec.fecDecodeResult : Obligations.FecDecodeResult := by
  unfold Obligations.FecDecodeResult
  refine ⟨decode_encode .fecDecode, fun s => writerChecks_of rfl rfl rfl fun hx =>
    ⟨fun h => ?short, fun h => onSrcBytes_of (hx.trans (congrArg _ (performFecDecode_of_block h))) fun b hlen hx => ?_⟩⟩
  case short => exact ends_of_raise (hx.trans (congrArg _ (performFecDecode_of_short h)))
  rintro n ds es delta rfl hds hes hdelta hzero hpatch
  generalize hn : s.srcLen.toNat - s.parityShards.toNat = n at *
  have hd : (b.take n).length = n := List.length_take_of_le (by omega)
  have hp : (b.drop n).length = s.parityShards.toNat := by rw [List.length_drop]; omega
  have hshards : fecShards (b.take n, 0) 0 (b.drop n) = (ds s.parityShards.toNat, es s.parityShards.toNat) := by
    have hall := fecShards_take_eq hd hp hds hes
      (fun j hj => by rw [hdelta j hj, List.getD_eq_getElem?_getD, List.getD_eq_getElem?_getD, List.getElem?_drop])
      hzero hpatch le_rfl
    rwa [← hp, List.take_length, hp] at hall
  have hemits := emits_of_finish hx
  refine ⟨fun hbudget => ?corrected, fun hexcess => ?uncorrectable⟩
  case corrected =>
    rw [fecDecodeResult_of_budget hshards (by rwa [hp]), hd] at hemits
    exact hemits
  case uncorrectable =>
    rw [fecDecodeResult_of_excess hshards (by rwa [hp]), hd] at hemits
    exact hemits

/-! ### An untampered block and one tampered byte (R243) -/

/-- Where the folds of the data agree with those its parity bytes come from, no shard counts an error. -/
theorem fecShards_of_fold_eq {d d₀ : List Byte} (h : ∀ j, foldOf d j = foldOf d₀ j) (e j m : Nat) :
    fecShards (d, e) j ((List.range' j m).map (foldOf d₀)) = (d, e) := by
  induction m generalizing j with
  | zero => rfl
  | succ m ih =>
    have hdelta : foldOf d j ^^^ foldOf d₀ j = 0 := by rw [h]; exact BitVec.xor_self
    rw [List.range'_succ, List.map_cons, fecShards, fecShard_of_delta_eq_zero e hdelta, ih]

theorem fecShards_untampered (d : List Byte) (p : Nat) : fecShards (d, 0) 0 (parityBytes d p) = (d, 0) := by
  rw [parityBytes_eq_map, List.range_eq_range']
  exact fecShards_of_fold_eq (fun _ => rfl) 0 0 p

/-- R243: an untampered block decodes to its data, with no error. -/
theorem fecDecodeResult_untampered (d : List Byte) (p : Nat) :
    fecDecodeResult d (parityBytes d p) = { rc := .success, res0 := 0, res1 := 1, res2 := resWord d.length, out := d } :=
  fecDecodeResult_of_budget (fecShards_untampered d p) (Nat.zero_le _)

/-- XORing the same value into the same byte twice changes nothing. -/
theorem modify_xor_modify_xor (d : List Byte) (i : Nat) (x : Byte) :
    (d.modify i (· ^^^ x)).modify i (· ^^^ x) = d := by
  have hcancel : (· ^^^ x) ∘ (· ^^^ x) = (id : Byte → Byte) := by
    funext y
    simp
  rw [List.modify_modify_eq, hcancel, List.modify_id]

section Tamper
variable {d : List Byte} {i p : Nat} {x : Byte}

theorem set_xor_eq_modify (hi : i < d.length) (x : Byte) : d.set i (d.getD i 0 ^^^ x) = d.modify i (· ^^^ x) := by
  rw [List.modify_eq_set_getElem?, List.getD_eq_getElem _ _ hi, List.getElem?_eq_getElem hi]
  rfl

/-- The patch with the tamper, wherever it lands, gives the folds of the untampered data back. -/
theorem foldOf_fecPatch_tampered (hi : i < d.length) (j : Nat) :
    foldOf (fecPatch (d.modify i (· ^^^ x)) x) j = foldOf d j := by
  have hpos : 0 < d.length := Nat.zero_lt_of_lt hi
  have hlands : x.toNat % d.length < (d.modify i (· ^^^ x)).length := by
    rw [List.length_modify]
    exact Nat.mod_lt _ hpos
  rw [fecPatch_eq_modify, List.length_modify, if_neg hpos.ne', foldOf_modify_xor hlands, foldOf_modify_xor hi,
    BitVec.xor_assoc, BitVec.xor_self, BitVec.xor_zero]

/-- The first shard sees the tamper as its delta and patches with it; every later shard then agrees. -/
theorem fecShards_tampered (hp : 1 ≤ p) (hi : i < d.length) (hx : x ≠ 0) :
    fecShards (d.modify i (· ^^^ x), 0) 0 (parityBytes d p) = (fecPatch (d.modify i (· ^^^ x)) x, 1) := by
  obtain ⟨m, rfl⟩ := Nat.exists_eq_add_of_le' hp
  have hdelta : foldOf (d.modify i (· ^^^ x)) 0 ^^^ foldOf d 0 = x := by
    rw [foldOf_modify_xor hi, BitVec.xor_comm, ← BitVec.xor_assoc, BitVec.xor_self, BitVec.zero_xor]
  rw [parityBytes_eq_map, List.range_eq_range', List.range'_succ, List.map_cons, fecShards,
    fecShard_of_delta_ne_zero 0 (hdelta.trans_ne hx), hdelta]
  exact fecShards_of_fold_eq (foldOf_fecPatch_tampered hi) 1 _ m

/-- R243: one tampered data byte is one correction and SUCCESS where P ≥ 2. -/
theorem fecDecodeResult_tampered (hp : 2 ≤ p) (hi : i < d.length) (hx : x ≠ 0) :
    fecDecodeResult (d.modify i (· ^^^ x)) (parityBytes d p) =
      { rc := .success, res0 := 1, res1 := 1, res2 := resWord d.length, out := fecPatch (d.modify i (· ^^^ x)) x } := by
  rw [fecDecodeResult_of_budget (fecShards_tampered (Nat.le_of_succ_le hp) hi hx) (by rwa [parityBytes_length]),
    List.length_modify]
  rfl

/-- The patch restores the data exactly where it lands on the tampered byte. -/
theorem fecPatch_tampered_eq_iff (hi : i < d.length) (hx : x ≠ 0) :
    fecPatch (d.modify i (· ^^^ x)) x = d ↔ x.toNat % d.length = i := by
  rw [fecPatch_eq_modify, List.length_modify, if_neg (Nat.zero_lt_of_lt hi).ne']
  constructor
  · intro h
    by_contra hne
    have hbyte : d[i] ^^^ x = d[i] := by
      have hread := congrArg (·[i]?) h
      simpa [List.getElem?_modify, hne, List.getElem?_eq_getElem hi] using hread
    exact hx ((BitVec.xor_right_inj d[i]).1 (hbyte.trans BitVec.xor_zero.symm))
  · rintro rfl
    exact modify_xor_modify_xor _ _ _

end Tamper

/-- Buffer RAM that holds a block, with one of its bytes overwritten, holds the block with that byte set. -/
theorem memBytes_of_tampered {m m' : Memory} {addr : Nat} {b : List Byte} {i : Nat} {v : Byte}
    (hb : memBytes m addr b.length = some b)
    (h : ∀ a, readByte m' a = if a = addr + i then some v else readByte m a) :
    memBytes m' addr b.length = some (b.set i v) := by
  obtain ⟨-, hread⟩ := (memBytes_eq_some_iff _ _ _ _).1 hb
  refine (memBytes_eq_some_iff _ _ _ _).2 ⟨List.length_set, fun k hk => ?_⟩
  rw [h, hread k hk, List.getElem?_set]
  by_cases hik : i = k
  · subst hik
    rw [if_pos rfl, if_pos rfl, if_pos hk]
  · rw [if_neg hik, if_neg (by omega)]

/-- FEC_DECODE past the common checks, on a block that is initialised and whose data fits: its completion. -/
theorem ends_fecDecode {u : State} {d p : List Byte} (hp : p.length = u.parityShards.toNat)
    (hlen : u.srcLen.toNat = (d ++ p).length) (hread : memBytes u.mem u.srcAddr.toNat (d ++ p).length = some (d ++ p))
    (hsrc : SrcFits u u.srcLen.toNat) (hdst : DstFits u) (hapart : RangesApart u u.srcLen.toNat)
    (hcap : d.length ≤ u.dstCap.toNat) :
    Ends .fecDecode u (fecDecodeResult d p).rc (fecDecodeResult d p).res0 (fecDecodeResult d p).res1
      (fecDecodeResult d p).res2 (fecDecodeResult d p).res3 (fecDecodeResult d p).out := by
  have hcheck : commonCheck .fecDecode u = none :=
    (commonCheck_eq_none_iff _ _).2 ⟨fun _ => hsrc, fun _ => hdst, fun _ _ => hapart⟩
  have hdata : u.srcLen.toNat - u.parityShards.toNat = d.length := by
    rw [hlen, List.length_append, hp, Nat.add_sub_cancel]
  have hblock : u.parityShards.toNat ≤ u.srcLen.toNat := by
    rw [hlen, List.length_append, hp]
    exact Nat.le_add_left _ _
  have hx : exec .fecDecode u = finish u (emit u { rc := .success } (fecDecodeResult d p)) := by
    have hperform := performFecDecode_of_block hblock
    rw [withSrcBytes_some _ (hlen ▸ hread), hdata, List.take_left, List.drop_left] at hperform
    exact (exec_of_checked hcheck).trans (congrArg _ hperform)
  exact (emits_of_finish hx).2 ((fecShards_length (d, 0) 0 p).trans_le hcap)

/-- A FEC_ENCODE that ended with SUCCESS wrote the block, whose length RES0 holds: the block fits DST_CAP, so its length
fits a register. -/
theorem fecEncode_of_success {s t : State} {d : List Byte} (hd : SrcBytesAre s s.srcLen.toNat d)
    (hx : exec .fecEncode s = .next t) (hrc : t.rc = .success) :
    t.res0.toNat = (d ++ parityBytes d s.parityShards.toNat).length
      ∧ memBytes t.mem s.dstAddr.toNat (d ++ parityBytes d s.parityShards.toNat).length
        = some (d ++ parityBytes d s.parityShards.toNat) := by
  have hemits := (own_of_writerChecks hx hrc (fecEncodeResult.2 s)).2 d hd
  simp only [← parityBytes_eq_map] at hemits
  have hcap : (d ++ parityBytes d s.parityShards.toNat).length ≤ s.dstCap.toNat :=
    Nat.le_of_not_lt fun hlt => not_ends_of_success hx hrc (by decide) (hemits.1 hlt)
  obtain ⟨-, -, -, -, hres0, -, -, -, hout, -⟩ := completedAs_of_emits hx hrc hemits
  refine ⟨?_, memBytes_of_storesOutput hout⟩
  have hfits := hcap.trans_lt s.dstCap.isLt
  rw [List.length_append, parityBytes_length, hd.1] at hfits ⊢
  rw [hres0, BitVec.toNat_ofNat, Nat.mod_eq_of_lt hfits]

/-- Settles O30: FEC_ENCODE's success leaves the block in buffer RAM (`fecEncode_of_success`), and decoding it, as it
stands or tampered, is `fecDecodeResult_untampered` or `fecDecodeResult_tampered`. -/
theorem fecUntamperedAndOneTamper : Obligations.FecUntamperedAndOneTamper := by
  unfold Obligations.FecUntamperedAndOneTamper
  refine ⟨fun s t u d hd hx hrc hshards haddr hlen hcap hsrc hdst hapart => ?operation, fun d p _ => ?function⟩
  case operation =>
    obtain ⟨hres0, hblock⟩ := fecEncode_of_success hd hx hrc
    rw [← haddr] at hblock
    rw [← hlen] at hsrc hapart hres0
    have hp : (parityBytes d s.parityShards.toNat).length = u.parityShards.toNat := by
      rw [parityBytes_length, hshards]
    refine ⟨fun hmem => ?untampered, fun i x htwo hi hne htamper => ?tampered⟩
    case untampered =>
      have hends := ends_fecDecode hp hres0 (hmem ▸ hblock) hsrc hdst hapart hcap
      rw [fecDecodeResult_untampered] at hends
      exact hends
    case tampered =>
      have hread := memBytes_of_tampered hblock (haddr ▸ htamper)
      rw [List.set_append_left _ _ hi, set_xor_eq_modify hi] at hread
      have hlength : (d ++ parityBytes d s.parityShards.toNat).length
          = (d.modify i (· ^^^ x) ++ parityBytes d s.parityShards.toNat).length := by
        rw [List.length_append, List.length_append, List.length_modify]
      rw [hlength] at hread hres0
      have hends := ends_fecDecode hp hres0 hread hsrc hdst hapart (by rwa [List.length_modify])
      rw [fecDecodeResult_tampered htwo hi hne] at hends
      exact ⟨_, hends, fecPatch_tampered_eq_iff hi hne⟩
  case function =>
    rw [fecDecodeResult_untampered]
    refine ⟨rfl, rfl, rfl, fun i x htwo hi hne => ?_⟩
    rw [set_xor_eq_modify hi, fecDecodeResult_tampered htwo hi hne]
    exact ⟨rfl, rfl, fecPatch_tampered_eq_iff hi hne⟩

end Sys2Proof.Machine


/-! The payload mode envelope (46_envelope.md): the tag characters of a mode field (R117), and what ENV_WRAP does in each case
of its rule (R256). -/

namespace Sys2Proof.Machine

/-! ### The mode tag (R117) -/

/-- A bit's tag character is '1' where the bit is set and '0' where it is not. -/
theorem tagChar_toNat (b : Bool) : tagChar b.toNat = if b then 0x31 else 0x30 := by cases b <;> rfl

/-- The tag of the mode in a register's bits 1:0 is one character for each of the two bits, bit 1 first. -/
theorem modeTag_field (w : Word) :
    modeTag (field w 1 0) = [if w.getLsbD 1 then 0x31 else 0x30, if w.getLsbD 0 then 0x31 else 0x30] := by
  have high : field w 1 0 / 2 % 2 = (w.getLsbD 1).toNat := by
    rw [BitVec.getLsbD, Nat.toNat_testBit, field]
    omega
  have low : field w 1 0 % 2 = (w.getLsbD 0).toNat := by
    rw [BitVec.getLsbD, Nat.toNat_testBit, field]
    omega
  rw [modeTag, high, low, tagChar_toNat, tagChar_toNat]

/-! ### ENV_WRAP (R256) -/

theorem performEnvWrap_of_reserved {s : State} (h : s.arg0.extractLsb' 2 30 ≠ 0) : performEnvWrap s = raiseRc .badArg :=
  if_pos ((field_ne_zero s.arg0 31 2).2 h)

/-- R256 with a mode in ARG0: the payload is read whole and goes out unchanged behind the mode's tag. -/
theorem performEnvWrap_of_mode {s : State} (h : s.arg0.extractLsb' 2 30 = 0) :
    performEnvWrap s = withSrcBytes s s.srcLen.toNat fun q =>
      emit s { rc := .success }
        { rc := .success, res0 := resWord (s.srcLen.toNat + 2), out := modeTag (field s.arg0 1 0) ++ q } :=
  if_neg fun hne => (field_ne_zero s.arg0 31 2).1 hne h

/-- Settles O31: behind the common checks ARG0[31:2] decides between BAD_ARG and the wrap; the two characters of the tag
are `modeTag_field`. -/
theorem envWrapResult : Obligations.EnvWrapResult := by
  unfold Obligations.EnvWrapResult
  refine ⟨decode_encode .envWrap, fun s => writerChecks_of rfl rfl rfl fun hx =>
    ⟨fun h => ?reserved, fun h => onSrcBytes_of (hx.trans (congrArg _ (performEnvWrap_of_mode h))) fun q _ hx => ?wrap⟩⟩
  case reserved => exact ends_of_raise (hx.trans (congrArg _ (performEnvWrap_of_reserved h)))
  case wrap =>
    rw [← modeTag_field]
    exact emits_of_finish hx

end Sys2Proof.Machine


/-! The result codes (60_exceptions.md): the table of their numbers and their validity, and the code a number stands for (R265,
R266). -/

namespace Sys2Proof.Machine

/-- The result codes in the order of R265's table. -/
def ResultCode.all : List ResultCode :=
  [.success, .calibrationInsufficient, .compressionNotBeneficial, .incompleteChunks, .incompletePacket, .parityMismatch,
    .checksumMismatch, .frameNotFound, .invalidEndFrame, .fecUncorrectable, .lzMalformed, .badLength, .badEnvelope,
    .illegalOpcode, .addrRange, .overlap, .badArg, .dstOverflow]

/-- A code's row in R265's table: the code, its number and its validity. -/
def ResultCode.row (rc : ResultCode) : ResultCode × BitVec 8 × Bool := (rc, rc.code, rc.valid)

/-- The code a number stands for; none for the numbers R265 leaves out. -/
def ResultCode.ofCode (n : BitVec 8) : Option ResultCode := ResultCode.all.find? (·.code == n)

theorem ResultCode.ofCode_code (rc : ResultCode) : ResultCode.ofCode rc.code = some rc := by cases rc <;> rfl

theorem ResultCode.code_injective : Function.Injective ResultCode.code := fun rc rc' h =>
  Option.some.inj <|
    calc some rc = ResultCode.ofCode rc.code := rc.ofCode_code.symm
      _ = ResultCode.ofCode rc'.code := congrArg _ h
      _ = some rc' := rc'.ofCode_code

theorem ResultCode.eq_of_mem_rows {rc : ResultCode} {n : BitVec 8} {v : Bool}
    (h : (rc, n, v) ∈ ResultCode.all.map ResultCode.row) : rc.code = n ∧ rc.valid = v := by
  obtain ⟨rc', -, hrow⟩ := List.mem_map.1 h
  cases hrow
  exact ⟨rfl, rfl⟩

/-- Settles O35: the obligation's table evaluates to the rows of `ResultCode.all`, so each of its lines is what `code` and
`valid` answer; `ofCode` takes a number back to its code, so no two codes share one. -/
theorem resultCodeNumbers : Obligations.ResultCodeNumbers := by
  unfold Obligations.ResultCodeNumbers
  exact ⟨fun _ _ _ hrow => ResultCode.eq_of_mem_rows hrow, fun _ _ h => ResultCode.code_injective h⟩

end Sys2Proof.Machine


/-! Command words (R90–R93, R95): the decoder as the inverse of the encoder, the core's step on the command in CMD, and the
columns of the operand table. -/

namespace Sys2Proof.Machine

/-! ### Decoding is the inverse of encoding (R91, R93) -/

theorem commandWordWellFormed_encode (i : Instr) : commandWordWellFormed (encode i) = true := by cases i <;> rfl

/-- Each row of the opcode map pairs an operation with its own opcode. -/
theorem opcode_of_mem_opcodeMap {op : BitVec 8} {i : Instr} (h : (op, i) ∈ opcodeMap) : op = opcodeOf i := by
  have hrows : opcodeMap = (opcodeMap.map Prod.snd).map fun i => (opcodeOf i, i) := rfl
  rw [hrows, List.mem_map] at h
  obtain ⟨j, -, hj⟩ := h
  obtain ⟨rfl, rfl⟩ := Prod.mk.inj hj
  rfl

/-- What the decoder answers is a row of the map, for a word whose reserved field is 0. -/
theorem decode_eq_ok_iff (w : Word) (i : Instr) :
    decode w = .ok i ↔ reservedField w = 0 ∧ opcodeMap.lookup (opcodeField w) = some i := by
  by_cases hr : reservedField w = 0
  · rw [decode, if_pos hr, and_iff_right hr]
    cases opcodeMap.lookup (opcodeField w) <;> simp
  · rw [decode_of_reserved_ne_zero hr, iff_false_right (fun h => hr h.1)]
    exact nofun

/-- A word whose reserved field is 0 is its opcode (R26). -/
theorem eq_setWidth_opcodeField {w : Word} (h : reservedField w = 0) : w = (opcodeField w).setWidth 32 := by
  have hhigh := congrArg BitVec.toNat h
  apply BitVec.eq_of_toNat_eq
  simp only [reservedField, opcodeField, BitVec.extractLsb'_toNat, Nat.shiftRight_eq_div_pow, BitVec.toNat_setWidth,
    BitVec.ofNat_eq_ofNat, BitVec.toNat_ofNat] at hhigh ⊢
  omega

theorem eq_encode_of_decode {w : Word} {i : Instr} (h : decode w = .ok i) : w = encode i := by
  obtain ⟨hr, hrow⟩ := (decode_eq_ok_iff w i).1 h
  obtain ⟨before, after, hmap, -⟩ := List.lookup_eq_some_iff.1 hrow
  have hmem : (opcodeField w, i) ∈ opcodeMap := by rw [hmap]; simp
  rw [encode, ← opcode_of_mem_opcodeMap hmem]
  exact eq_setWidth_opcodeField hr

/-- Settles O1: the map pairs each operation with its own opcode, so a word that decodes is its command's word; and the
decoder refuses no word that passes both checks of R93, since the map has a row for every assigned opcode. -/
theorem decodeAndEncodeAgree : Obligations.DecodeAndEncodeAgree := by
  unfold Obligations.DecodeAndEncodeAgree
  refine ⟨fun i => ⟨commandWordWellFormed_encode i, decode_encode i⟩, fun _ _ => eq_encode_of_decode,
    fun w => ⟨?refused, decode_of_illegal⟩⟩
  case refused =>
    rintro ⟨e, he⟩
    by_contra hlegal
    obtain ⟨hr, ho⟩ := not_or.1 hlegal
    obtain ⟨i, hi⟩ := Option.ne_none_iff_exists'.1 fun hn => ho ((lookup_opcodeMap_eq_none_iff _).1 hn)
    have hok := (decode_eq_ok_iff w i).2 ⟨not_not.1 hr, hi⟩
    rw [hok] at he
    cases he

/-! ### The step runs the command (R97, R311) -/

/-- The core's turn on a command word that names an operation. -/
theorem coreTurn_of_decode_ok {s : State} {i : Instr} (hb : s.phase = .busy) (hs : s.stuck = false)
    (hd : decode s.cmd = .ok i) : coreTurn s = exec i s :=
  (coreTurn_enabled hb hs).trans (runCommand_ok hd)

/-- The word that `withFetchWord` loads is the command's own. -/
theorem tableWord_encode (i : Instr) : tableWord 32 (encode i).toNat = encode i := by
  rw [tableWord, Nat.mod_eq_of_lt (encode i).isLt, BitVec.ofNat_toNat, BitVec.setWidth_eq]

/-- After `loadCommand` the step is the core's turn on the state right after acceptance, whatever is pending (log entry 5). -/
theorem step_loadCommand (s : State) (w : Word) : step (loadCommand s w) = coreTurn (acceptCommand s w) := by
  cases hi : s.inputs with
  | nil =>
    have hload : loadCommand s w = acceptCommand s w := by rw [loadCommand, hi, coreFirst, ← hi]; rfl
    rw [hload]
    exact step_of_inputs_nil hi rfl
  | cons e rest =>
    have hpending : (loadCommand s w).inputs = .coreTurn :: s.inputs := by rw [loadCommand_inputs, hi]; rfl
    exact step_of_coreTurn hpending

/-- Settles O3: the step is the core's turn where the core has it, and right after `loadCommand` too. -/
theorem stepRunsDecodedCommand : Obligations.StepRunsDecodedCommand := by
  unfold Obligations.StepRunsDecodedCommand
  refine ⟨fun s i hb hs hd => ⟨fun hi => ?nothingPending, fun rest hi => ?coreTurnFirst⟩, fun s i => ?fetched⟩
  case nothingPending => exact (step_of_inputs_nil hi hs).trans (coreTurn_of_decode_ok hb hs hd)
  case coreTurnFirst => exact (step_of_coreTurn hi).trans (coreTurn_of_decode_ok hb hs hd)
  case fetched =>
    rw [State.withFetchWord, tableWord_encode, step_loadCommand]
    exact coreTurn_of_decode_ok rfl rfl (decode_encode i)

/-! ### The operand table (R95) -/

/-- Settles O40: each column of the table is read off for each operation. -/
theorem operandSizeTable : Obligations.OperandSizeTable := by
  unfold Obligations.OperandSizeTable
  intro s
  refine ⟨?luma, ⟨rfl, rfl⟩, ?bits, ?bytes, fun i hi => ?reads, fun i => ?writes⟩
  case luma => simp [srcBytes, srcUnit, readsRam, writesRam]
  case bits => simp [srcBytes, srcUnit, bytesOfBits]
  case bytes => simp [srcBytes, srcUnit]
  case reads =>
    cases i with
    | luma => exact absurd rfl hi
    | _ => rfl
  case writes => cases i <;> decide

end Sys2Proof.Machine


/-! What holds of every operation (60_exceptions.md, R65, R73): the result codes it can end with, the outcomes that write
buffer RAM and where they write, and what its outcome depends on. -/

namespace Sys2Proof.Machine

/-! ### What an operation's own steps may answer (R267, R268) -/

/-- The outcomes of R267 that write the output of operation i. -/
def DeliversOutput (i : Instr) (rc : ResultCode) : Prop :=
  writesRam i = true
    ∧ (rc = .success ∨ (i = .compressData ∧ rc = .compressionNotBeneficial) ∨ (i = .parDecode ∧ rc = .parityMismatch)
        ∨ (i = .fecDecode ∧ rc = .fecUncorrectable))

/-- A completion that R267 and R268 allow operation i, whether or not its output fits. -/
def AllowedCompletion (i : Instr) (c : Completion) : Prop :=
  c.rc ∈ possibleCodes i ∧ (c.out = [] ∨ DeliversOutput i c.rc)

/-- What operation i may answer in state s: an allowed completion whose output fits DST_CAP, or the fault UNINIT_READ. -/
def Allowed (i : Instr) (s : State) : Perform → Prop
  | .ok c => AllowedCompletion i c ∧ c.out.length ≤ s.dstCap.toNat
  | .error f => f = .uninitRead

section Allowed
variable {i : Instr} {s : State}

theorem deliversOutput_success (h : writesRam i = true) : DeliversOutput i .success := ⟨h, .inl rfl⟩

/-- A completion without output is allowed by its code alone. -/
theorem allowedCompletion_of_out_nil {c : Completion} (rc : ResultCode) (hrc : c.rc = rc) (hcode : rc ∈ possibleCodes i)
    (hout : c.out = []) : AllowedCompletion i c :=
  ⟨hrc ▸ hcode, .inl hout⟩

/-- A SUCCESS is allowed whatever its output, for an operation that writes buffer RAM. -/
theorem allowedCompletion_of_success {c : Completion} (hrc : c.rc = .success) (hcode : .success ∈ possibleCodes i)
    (hw : writesRam i = true) : AllowedCompletion i c :=
  ⟨hrc ▸ hcode, .inr (hrc ▸ deliversOutput_success hw)⟩

theorem allowed_of_out_nil {c : Completion} (rc : ResultCode) (hrc : c.rc = rc) (hcode : rc ∈ possibleCodes i)
    (hout : c.out = []) : Allowed i s (.ok c) :=
  ⟨allowedCompletion_of_out_nil rc hrc hcode hout, by rw [hout]; exact Nat.zero_le _⟩

theorem allowed_raiseRc {rc : ResultCode} (hcode : rc ∈ possibleCodes i) : Allowed i s (raiseRc rc) :=
  allowed_of_out_nil rc rfl hcode rfl

/-- Emit answers DST_OVERFLOW without output, or the full completion where its output fits (R99). -/
theorem allowed_emit {sofar full : Completion} (hover : .dstOverflow ∈ possibleCodes i) (hfull : AllowedCompletion i full) :
    Allowed i s (emit s sofar full) := by
  rcases emit_cases s sofar full with ⟨-, he⟩ | ⟨hfits, he⟩
  · rw [he]
    exact allowed_of_out_nil .dstOverflow rfl hover rfl
  · rw [he]
    exact ⟨hfull, hfits⟩

/-- Emit of a SUCCESS, for an operation that writes buffer RAM. -/
theorem allowed_emit_success {sofar full : Completion} (hover : .dstOverflow ∈ possibleCodes i)
    (hcode : .success ∈ possibleCodes i) (hw : writesRam i = true) (hrc : full.rc = .success) :
    Allowed i s (emit s sofar full) :=
  allowed_emit hover (allowedCompletion_of_success hrc hcode hw)

theorem allowed_withSrcBytes {n : Nat} {own : List Byte → Perform} (h : ∀ d, Allowed i s (own d)) :
    Allowed i s (withSrcBytes s n own) := by
  cases hread : memBytes s.mem s.srcAddr.toNat n with
  | none => rw [withSrcBytes_none own hread]; rfl
  | some d => rw [withSrcBytes_some own hread]; exact h d

theorem allowed_withSrcBits {n : Nat} {own : List Bool → Perform} (h : ∀ b, Allowed i s (own b)) :
    Allowed i s (withSrcBits s n own) := by
  cases hread : bitsIn s.mem s.srcAddr.toNat n with
  | none => rw [withSrcBits_none own hread]; rfl
  | some b => rw [withSrcBits_some own hread]; exact h b

theorem allowed_withSamples {n : Nat} {own : List Nat → Perform} (h : ∀ v, Allowed i s (own v)) :
    Allowed i s (withSamples s n own) := by
  cases hread : samplesAt s.mem s.srcAddr.toNat n with
  | none => rw [withSamples_none own hread]; rfl
  | some v => rw [withSamples_some own hread]; exact h v

end Allowed

/-! ### Each operation's own steps -/

theorem performLuma_allowed (s : State) : Allowed .luma s (performLuma s) := by
  unfold performLuma
  split
  · exact allowed_raiseRc (by decide)
  · exact allowed_of_out_nil .success rfl (by decide) rfl

theorem performThreshold_allowed (s : State) : Allowed .threshold s (performThreshold s) := by
  unfold performThreshold
  dsimp only
  split
  · exact allowed_of_out_nil .calibrationInsufficient rfl (by decide) rfl
  · exact allowed_withSamples fun v => allowed_of_out_nil .success rfl (by decide) rfl

theorem performBitDecide_allowed (s : State) : Allowed .bitDecide s (performBitDecide s) := by
  unfold performBitDecide
  split
  · exact allowed_raiseRc (by decide)
  · exact allowed_withSamples fun v => allowed_emit_success (by decide) (by decide) rfl rfl

theorem performParBit_allowed (s : State) : Allowed .parBit s (performParBit s) :=
  allowed_withSrcBits fun _ => allowed_of_out_nil .success rfl (by decide) rfl

theorem performParCheck_allowed (s : State) : Allowed .parCheck s (performParCheck s) := by
  unfold performParCheck
  split
  · exact allowed_raiseRc (by decide)
  · refine allowed_withSrcBits fun b => ?_
    split
    · exact allowed_of_out_nil .success rfl (by decide) rfl
    · exact allowed_of_out_nil .parityMismatch rfl (by decide) rfl

theorem performParEncode_allowed (s : State) : Allowed .parEncode s (performParEncode s) :=
  allowed_withSrcBytes fun _ => allowed_emit_success (by decide) (by decide) rfl rfl

theorem parDecodeResult_allowed (b : List Bool) : AllowedCompletion .parDecode (parDecodeResult b) := by
  by_cases h : parityFailures b = 0
  · exact allowedCompletion_of_success (if_pos h) (by decide) rfl
  · have hrc : (parDecodeResult b).rc = .parityMismatch := if_neg h
    rw [AllowedCompletion, hrc]
    exact ⟨by decide, .inr ⟨rfl, .inr (.inr (.inl ⟨rfl, rfl⟩))⟩⟩

theorem performParDecode_allowed (s : State) : Allowed .parDecode s (performParDecode s) :=
  allowed_withSrcBits fun b => allowed_emit (by decide) (parDecodeResult_allowed b)

theorem performCrc16_allowed (s : State) : Allowed .crc16 s (performCrc16 s) :=
  allowed_withSrcBytes fun _ => allowed_of_out_nil .success rfl (by decide) rfl

theorem performFrameCreate_allowed (s : State) : Allowed .frameCreate s (performFrameCreate s) := by
  unfold performFrameCreate
  dsimp only
  split
  · exact allowed_raiseRc (by decide)
  · split
    · exact allowed_raiseRc (by decide)
    · exact allowed_withSrcBytes fun p => allowed_emit_success (by decide) (by decide) rfl rfl

/-- A parse that fails has no output, and one that succeeds is a SUCCESS (R185). -/
theorem parseBody_allowed {hdr : Completion} (hout : hdr.out = []) (bound : Nat) (b : List Bool) (st n : Nat) :
    AllowedCompletion .frameParse (parseBody bound b st n hdr) := by
  unfold parseBody
  dsimp only
  split
  · exact allowedCompletion_of_out_nil .badLength rfl (by decide) hout
  · split
    · exact allowedCompletion_of_out_nil .incompletePacket rfl (by decide) hout
    · split
      · exact allowedCompletion_of_out_nil .checksumMismatch rfl (by decide) hout
      · split
        · exact allowedCompletion_of_out_nil .invalidEndFrame rfl (by decide) hout
        · exact allowedCompletion_of_success rfl (by decide) rfl

theorem parsePacket_allowed (bound : Nat) (b : List Bool) : AllowedCompletion .frameParse (parsePacket bound b) := by
  unfold parsePacket
  split
  · exact allowedCompletion_of_out_nil .frameNotFound rfl (by decide) rfl
  · split
    · exact allowedCompletion_of_out_nil .incompletePacket rfl (by decide) rfl
    · exact parseBody_allowed rfl _ _ _ _

theorem performFrameParse_allowed (s : State) : Allowed .frameParse s (performFrameParse s) :=
  allowed_withSrcBits fun b => allowed_emit (by decide) (parsePacket_allowed _ b)

theorem performChunk_allowed (s : State) : Allowed .chunk s (performChunk s) := by
  unfold performChunk
  dsimp only
  split
  · exact allowed_raiseRc (by decide)
  · split
    · exact allowed_raiseRc (by decide)
    · exact allowed_withSrcBytes fun d => allowed_emit_success (by decide) (by decide) rfl rfl

theorem performRecords_allowed (s : State) (rs : List ChunkRecord) : Allowed .reassemble s (performRecords s rs) := by
  unfold performRecords
  dsimp only
  split
  · split
    · exact allowed_emit_success (by decide) (by decide) rfl rfl
    · exact allowed_of_out_nil .incompleteChunks rfl (by decide) rfl
  · exact allowed_of_out_nil .incompleteChunks rfl (by decide) rfl

theorem performReassemble_allowed (s : State) : Allowed .reassemble s (performReassemble s) := by
  refine allowed_withSrcBytes fun b => ?_
  split
  · exact allowed_raiseRc (by decide)
  · exact performRecords_allowed s _

theorem performLzCompress_allowed (s : State) : Allowed .lzCompress s (performLzCompress s) :=
  allowed_withSrcBytes fun _ => allowed_emit_success (by decide) (by decide) rfl rfl

theorem performLzDecompress_allowed (s : State) : Allowed .lzDecompress s (performLzDecompress s) := by
  refine allowed_withSrcBits fun b => ?_
  split
  · exact allowed_of_out_nil .lzMalformed rfl (by decide) rfl
  · exact allowed_emit_success (by decide) (by decide) rfl rfl

theorem emitPlain_allowed (s : State) (d : List Byte) (reason streamBits : Nat) :
    Allowed .compressData s (emitPlain s d reason streamBits) :=
  have hcode : .compressionNotBeneficial ∈ possibleCodes .compressData := by decide
  allowed_emit (by decide) ⟨hcode, .inr ⟨rfl, .inr (.inl ⟨rfl, rfl⟩)⟩⟩

theorem performCompressData_allowed (s : State) : Allowed .compressData s (performCompressData s) := by
  refine allowed_withSrcBytes fun d => ?_
  dsimp only
  split
  · exact emitPlain_allowed s d _ _
  · split
    · exact emitPlain_allowed s d _ _
    · split
      · exact allowed_emit_success (by decide) (by decide) rfl rfl
      · exact emitPlain_allowed s d _ _

theorem performFecEncode_allowed (s : State) : Allowed .fecEncode s (performFecEncode s) :=
  allowed_withSrcBytes fun _ => allowed_emit_success (by decide) (by decide) rfl rfl

theorem fecDecodeResult_allowed (d p : List Byte) : AllowedCompletion .fecDecode (fecDecodeResult d p) := by
  generalize hshards : fecShards (d, 0) 0 p = de
  obtain ⟨out, e⟩ := de
  rcases Nat.lt_or_ge p.length (2 * e) with h | h
  · rw [fecDecodeResult_of_excess hshards h]
    have hcode : .fecUncorrectable ∈ possibleCodes .fecDecode := by decide
    exact ⟨hcode, .inr ⟨rfl, .inr (.inr (.inr ⟨rfl, rfl⟩))⟩⟩
  · rw [fecDecodeResult_of_budget hshards h]
    exact allowedCompletion_of_success rfl (by decide) rfl

theorem performFecDecode_allowed (s : State) : Allowed .fecDecode s (performFecDecode s) := by
  unfold performFecDecode
  split
  · exact allowed_raiseRc (by decide)
  · exact allowed_withSrcBytes fun b => allowed_emit (by decide) (fecDecodeResult_allowed _ _)

theorem performEnvWrap_allowed (s : State) : Allowed .envWrap s (performEnvWrap s) := by
  unfold performEnvWrap
  split
  · exact allowed_raiseRc (by decide)
  · exact allowed_withSrcBytes fun q => allowed_emit_success (by decide) (by decide) rfl rfl

theorem performEnvUnwrap_allowed (s : State) : Allowed .envUnwrap s (performEnvUnwrap s) := by
  unfold performEnvUnwrap
  split
  · exact allowed_raiseRc (by decide)
  · refine allowed_withSrcBytes fun b => ?_
    split
    · exact allowed_raiseRc (by decide)
    · exact allowed_emit_success (by decide) (by decide) rfl rfl

/-- Every operation's own steps answer what R267 and R268 allow it. -/
theorem performOf_allowed (i : Instr) (s : State) : Allowed i s (performOf i s) := by
  cases i with
  | luma => exact performLuma_allowed s
  | threshold => exact performThreshold_allowed s
  | bitDecide => exact performBitDecide_allowed s
  | parBit => exact performParBit_allowed s
  | parCheck => exact performParCheck_allowed s
  | parEncode => exact performParEncode_allowed s
  | parDecode => exact performParDecode_allowed s
  | crc16 => exact performCrc16_allowed s
  | frameCreate => exact performFrameCreate_allowed s
  | frameParse => exact performFrameParse_allowed s
  | chunk => exact performChunk_allowed s
  | reassemble => exact performReassemble_allowed s
  | lzCompress => exact performLzCompress_allowed s
  | lzDecompress => exact performLzDecompress_allowed s
  | compressData => exact performCompressData_allowed s
  | fecEncode => exact performFecEncode_allowed s
  | fecDecode => exact performFecDecode_allowed s
  | envWrap => exact performEnvWrap_allowed s
  | envUnwrap => exact performEnvUnwrap_allowed s

/-! ### Every operation, behind its common checks (R98) -/

/-- What an operation answers: its own steps behind the common checks. -/
abbrev outcomeOf (i : Instr) (s : State) : Perform := prechecked i s fun _ => performOf i s

/-- Check 2 or 3 of R98 fails only for an operation that has the range, check 4 only for one that has both. -/
theorem commonCheck_code {i : Instr} {s : State} {rc : ResultCode} (h : commonCheck i s = some rc) :
    rc ∈ possibleCodes i := by
  have hrange : readsRam i = true ∨ writesRam i = true → .addrRange ∈ possibleCodes i := by cases i <;> decide
  have hoverlap : readsRam i = true → writesRam i = true → .overlap ∈ possibleCodes i := by cases i <;> decide
  unfold commonCheck at h
  split at h
  · next hsrc =>
    cases h
    exact hrange (.inl (Bool.and_eq_true_iff.1 hsrc).1)
  · split at h
    · next hdst =>
      cases h
      exact hrange (.inr (Bool.and_eq_true_iff.1 hdst).1)
    · split at h
      · next hboth =>
        cases h
        simp only [rangesOverlap, Bool.and_eq_true] at hboth
        obtain ⟨⟨⟨⟨⟨hr, hw⟩, -⟩, -⟩, -⟩, -⟩ := hboth
        exact hoverlap hr hw
      · cases h

/-- Every completion is allowed, and one with output has passed the common checks. -/
theorem outcomeOf_ok {i : Instr} {s : State} {c : Completion} (h : outcomeOf i s = .ok c) :
    c.rc ∈ possibleCodes i
      ∧ (c.out = [] ∨ (commonCheck i s = none ∧ DeliversOutput i c.rc ∧ c.out.length ≤ s.dstCap.toNat)) := by
  rcases prechecked_cases i s fun _ => performOf i s with ⟨rc, hcheck, -, hraise⟩ | ⟨hcheck, hown⟩
  · obtain rfl : ({ rc := rc } : Completion) = c := Except.ok.inj (hraise.symm.trans h)
    exact ⟨commonCheck_code hcheck, .inl rfl⟩
  · have hallowed := performOf_allowed i s
    rw [hown.symm.trans h] at hallowed
    obtain ⟨⟨hrc, hout⟩, hfits⟩ := hallowed
    exact ⟨hrc, hout.imp_right fun hdelivers => ⟨hcheck, hdelivers, hfits⟩⟩

/-- The one fault an operation reaches is UNINIT_READ. -/
theorem outcomeOf_error {i : Instr} {s : State} {f : FaultName} (h : outcomeOf i s = .error f) : f = .uninitRead := by
  rcases prechecked_cases i s fun _ => performOf i s with ⟨rc, -, -, hraise⟩ | ⟨-, hown⟩
  · cases hraise.symm.trans h
  · have hallowed := performOf_allowed i s
    rwa [hown.symm.trans h] at hallowed

/-- What an operation does to the state: it halts at UNINIT_READ, or it is its completion. -/
theorem exec_cases {i : Instr} {s t : State} (h : exec i s = .next t) :
    HaltedAt s t ∨ ∃ c, outcomeOf i s = .ok c ∧ t = complete s c := by
  rcases exec_next h with ⟨c, hc, ht⟩ | ⟨f, hf, ht⟩
  · exact .inr ⟨c, hc, ht⟩
  · obtain rfl := outcomeOf_error hf
    exact .inl ht

theorem mem_of_haltedAt {s t : State} (h : HaltedAt s t) : t.mem = s.mem := by rw [h]

/-- Settles O34: a halted operation writes nothing, and a completion with output is one of R267's (`outcomeOf_ok`). -/
theorem onlyTheNamedOutcomesWrite : Obligations.OnlyTheNamedOutcomesWrite := by
  unfold Obligations.OnlyTheNamedOutcomesWrite
  intro i s t hx
  rcases exec_cases hx with hhalt | ⟨c, hc, rfl⟩
  · exact .inl (mem_of_haltedAt hhalt)
  · obtain ⟨-, hout | ⟨-, ⟨hw, hrc⟩, -⟩⟩ := outcomeOf_ok hc
    · exact .inl (by rw [complete_mem, hout, putBytes])
    · exact .inr ⟨hw, rfl, rfl, hrc⟩

theorem ResultCode.valid_eq_true_iff (rc : ResultCode) :
    rc.valid = true ↔ rc = .success ∨ rc = .calibrationInsufficient ∨ rc = .compressionNotBeneficial := by
  cases rc <;> decide

/-- Settles O36: a completion's code is one of its operation's (`outcomeOf_ok`), and VALID is `valid` of it. -/
theorem resultCodesByOperation : Obligations.ResultCodesByOperation := by
  unfold Obligations.ResultCodesByOperation
  intro i s t hx
  rcases exec_cases hx with hhalt | ⟨c, hc, rfl⟩
  · exact .inl hhalt
  · exact .inr ⟨rfl, (outcomeOf_ok hc).1, c.rc.valid_eq_true_iff⟩

/-- Settles O37: the output of a completion fits DST_CAP, and the common checks put the DST range inside BUF_BYTES. -/
theorem writesOnlyInsideTheDstRange : Obligations.WritesOnlyInsideTheDstRange := by
  unfold Obligations.WritesOnlyInsideTheDstRange
  intro i s t a hx hchanged
  rcases exec_cases hx with hhalt | ⟨c, hc, rfl⟩
  · exact absurd (by rw [mem_of_haltedAt hhalt]) hchanged
  · have hinside : s.dstAddr.toNat ≤ a ∧ a < s.dstAddr.toNat + c.out.length := by
      by_contra houtside
      rw [complete_mem, readByte_putBytes, if_neg houtside] at hchanged
      exact hchanged rfl
    obtain ⟨-, hout | ⟨hcheck, ⟨hw, -⟩, hfits⟩⟩ := outcomeOf_ok hc
    · rw [hout] at hinside
      exact absurd hinside.2 (Nat.not_lt.2 hinside.1)
    · have hdst := ((commonCheck_eq_none_iff i s).1 hcheck).2.1 hw
      exact ⟨hw, hinside.1, by omega, by omega⟩

end Sys2Proof.Machine


/-! What an operation's outcome depends on (R19, R73): its SRC bytes, BUF_BYTES, and the operand and configuration registers
it may read. So two states that agree on these end alike, and a completed command can be repeated. -/

namespace Sys2Proof.Machine

/-- Two states that operation i cannot tell apart: they agree on BUF_BYTES, on the operand and configuration registers an
operation may read, and on the bytes of the SRC range. -/
structure SameInputs (i : Instr) (s s' : State) : Prop where
  bufBytes : s'.bufBytes = s.bufBytes
  srcAddr : s'.srcAddr = s.srcAddr
  srcLen : s'.srcLen = s.srcLen
  dstAddr : s'.dstAddr = s.dstAddr
  dstCap : s'.dstCap = s.dstCap
  arg0 : s'.arg0 = s.arg0
  arg1 : s'.arg1 = s.arg1
  arg2 : s'.arg2 = s.arg2
  parityShards : s'.parityShards = s.parityShards
  cfgChunk : s'.cfgChunk = s.cfgChunk
  compEn : s'.compEn = s.compEn
  cfgMargin : s'.cfgMargin = s.cfgMargin
  maxLen : s'.maxLen = s.maxLen
  source : ∀ k, k < srcBytes i s → readByte s'.mem (s.srcAddr.toNat + k) = readByte s.mem (s.srcAddr.toNat + k)

section SameInputs
variable {i : Instr} {s s' : State}

/-! ### The shared operations on states with the same inputs -/

theorem SameInputs.srcCount (h : SameInputs i s s') : srcCount s' = srcCount s := congrArg BitVec.toNat h.srcLen

theorem SameInputs.srcBytes (h : SameInputs i s s') (j : Instr) : srcBytes j s' = srcBytes j s := by
  rw [Machine.srcBytes, Machine.srcBytes, h.srcCount]

theorem SameInputs.emit (h : SameInputs i s s') : emit s' = emit s := by
  funext sofar full
  rw [Machine.emit, Machine.emit, h.dstCap]

theorem SameInputs.commonCheck (h : SameInputs i s s') : commonCheck i s' = commonCheck i s := by
  have hfits : fits s' = fits s := by
    funext addr n
    rw [fits, fits, h.bufBytes]
  have hoverlap : rangesOverlap i s' = rangesOverlap i s := by
    rw [rangesOverlap, rangesOverlap, h.srcBytes, h.srcAddr, h.dstAddr, h.dstCap]
  rw [Machine.commonCheck, Machine.commonCheck, hfits, hoverlap, h.srcBytes, h.srcAddr, h.dstAddr, h.dstCap]

theorem SameInputs.memBytes (h : SameInputs i s s') {n : Nat} (hn : n ≤ Machine.srcBytes i s) :
    memBytes s'.mem s'.srcAddr.toNat n = memBytes s.mem s.srcAddr.toNat n := by
  rw [h.srcAddr]
  exact memBytes_congr fun k hk => h.source k (hk.trans_le hn)

theorem SameInputs.withSrcBytes (h : SameInputs i s s') {n : Nat} (hn : n ≤ Machine.srcBytes i s) :
    withSrcBytes s' n = withSrcBytes s n := by
  funext own
  rw [Machine.withSrcBytes, Machine.withSrcBytes, h.memBytes hn]

theorem SameInputs.withSrcBits (h : SameInputs i s s') {n : Nat} (hn : bytesOfBits n ≤ Machine.srcBytes i s) :
    withSrcBits s' n = withSrcBits s n := by
  funext own
  rw [Machine.withSrcBits, Machine.withSrcBits, bitsIn, bitsIn, h.memBytes hn]

/-- The samples of two memories that agree on their bytes. -/
theorem samplesAt_congr {m m' : Memory} {addr n : Nat} (h : ∀ k < 4 * n, readByte m (addr + k) = readByte m' (addr + k)) :
    samplesAt m addr n = samplesAt m' addr n := by
  induction n generalizing addr with
  | zero => rfl
  | succ n ih =>
    have hword : memRead m addr 4 = memRead m' addr 4 := by
      rw [memRead, memRead, memBytes_congr fun k hk => h k (by omega)]
    have hrest : samplesAt m (addr + 4) n = samplesAt m' (addr + 4) n :=
      ih fun k hk => by rw [Nat.add_assoc]; exact h (4 + k) (by omega)
    rw [samplesAt, samplesAt, hword, hrest]

theorem SameInputs.withSamples (h : SameInputs i s s') {n : Nat} (hn : 4 * n ≤ Machine.srcBytes i s) :
    withSamples s' n = withSamples s n := by
  funext own
  rw [Machine.withSamples, Machine.withSamples, h.srcAddr,
    samplesAt_congr fun k hk => h.source k (hk.trans_le hn)]

theorem SameInputs.thresholdNum (h : SameInputs i s s') : thresholdNum s' = thresholdNum s := by
  rw [Machine.thresholdNum, Machine.thresholdNum, h.arg0, h.arg1]

theorem SameInputs.parityCount (h : SameInputs i s s') : parityCount s' = parityCount s :=
  congrArg BitVec.toNat h.parityShards

theorem SameInputs.performRecords (h : SameInputs i s s') : performRecords s' = performRecords s := by
  funext rs
  simp only [Machine.performRecords, h.emit]

theorem SameInputs.emitPlain (h : SameInputs i s s') : emitPlain s' = emitPlain s := by
  funext d reason streamBits
  simp only [Machine.emitPlain, h.emit]

/-! ### Each operation on states with the same inputs -/

/-- PAR_CHECK reads its stream only where it has 9 bits. -/
theorem SameInputs.performParCheck (h : SameInputs .parCheck s s') : performParCheck s' = performParCheck s := by
  by_cases hlen : s.srcLen = 9
  · have hn : bytesOfBits 9 ≤ Machine.srcBytes .parCheck s := by
      rw [Machine.srcBytes, Machine.srcCount, hlen]
      decide
    rw [performParCheck_of_length_eq hlen, performParCheck_of_length_eq (h.srcLen.trans hlen), h.withSrcBits hn]
  · rw [performParCheck_of_length_ne hlen, performParCheck_of_length_ne (by rwa [h.srcLen])]

theorem SameInputs.performOf (h : SameInputs i s s') : performOf i s' = performOf i s := by
  cases i with
  | luma => simp only [Machine.performOf, performLuma, h.arg0]
  | threshold =>
    simp only [Machine.performOf, performThreshold, h.srcCount, h.cfgMargin, h.withSamples (n := Machine.srcCount s) le_rfl]
  | bitDecide =>
    simp only [Machine.performOf, performBitDecide, h.srcCount, h.arg2, h.thresholdNum, h.emit,
      h.withSamples (n := Machine.srcCount s) le_rfl]
  | parBit => simp only [Machine.performOf, performParBit, h.srcCount, h.withSrcBits (n := Machine.srcCount s) le_rfl]
  | parCheck => exact h.performParCheck
  | parEncode =>
    simp only [Machine.performOf, performParEncode, h.srcCount, h.emit, h.withSrcBytes (n := Machine.srcCount s) le_rfl]
  | parDecode =>
    simp only [Machine.performOf, performParDecode, h.srcCount, h.emit, h.withSrcBits (n := Machine.srcCount s) le_rfl]
  | crc16 => simp only [Machine.performOf, performCrc16, h.srcCount, h.withSrcBytes (n := Machine.srcCount s) le_rfl]
  | frameCreate =>
    simp only [Machine.performOf, performFrameCreate, h.srcCount, h.arg0, h.arg1, h.emit,
      h.withSrcBytes (n := Machine.srcCount s) le_rfl]
  | frameParse =>
    simp only [Machine.performOf, performFrameParse, h.srcCount, h.maxLen, h.emit,
      h.withSrcBits (n := Machine.srcCount s) le_rfl]
  | chunk =>
    simp only [Machine.performOf, performChunk, h.srcCount, h.arg0, h.cfgChunk, h.emit,
      h.withSrcBytes (n := Machine.srcCount s) le_rfl]
  | reassemble =>
    simp only [Machine.performOf, performReassemble, h.srcCount, h.performRecords,
      h.withSrcBytes (n := Machine.srcCount s) le_rfl]
  | lzCompress =>
    simp only [Machine.performOf, performLzCompress, h.srcCount, h.emit, h.withSrcBytes (n := Machine.srcCount s) le_rfl]
  | lzDecompress =>
    simp only [Machine.performOf, performLzDecompress, h.srcCount, h.emit, h.withSrcBits (n := Machine.srcCount s) le_rfl]
  | compressData =>
    simp only [Machine.performOf, performCompressData, h.srcCount, h.compEn, h.emit, h.emitPlain,
      h.withSrcBytes (n := Machine.srcCount s) le_rfl]
  | fecEncode =>
    simp only [Machine.performOf, performFecEncode, h.srcCount, h.parityCount, h.emit,
      h.withSrcBytes (n := Machine.srcCount s) le_rfl]
  | fecDecode =>
    simp only [Machine.performOf, performFecDecode, h.srcCount, h.parityCount, h.emit,
      h.withSrcBytes (n := Machine.srcCount s) le_rfl]
  | envWrap =>
    simp only [Machine.performOf, performEnvWrap, h.srcCount, h.arg0, h.emit,
      h.withSrcBytes (n := Machine.srcCount s) le_rfl]
  | envUnwrap =>
    simp only [Machine.performOf, performEnvUnwrap, h.srcCount, h.emit, h.withSrcBytes (n := Machine.srcCount s) le_rfl]

/-- The outcome of an operation is a function of its inputs (R19, R73). -/
theorem SameInputs.outcomeOf (h : SameInputs i s s') : outcomeOf i s' = outcomeOf i s := by
  rw [Machine.outcomeOf, prechecked, h.commonCheck, h.performOf]
  rfl

end SameInputs

/-- Settles O38: the two states have one outcome (`SameInputs.outcomeOf`), which is a completion or the fault UNINIT_READ. -/
theorem outcomeDependsOnlyOnItsInputs : Obligations.OutcomeDependsOnlyOnItsInputs := by
  unfold Obligations.OutcomeDependsOnlyOnItsInputs
  intro i s s' hbuf hsrcAddr hsrcLen hdstAddr hdstCap harg0 harg1 harg2 hparity hchunk hcomp hmargin hmaxLen hsource
  have hsame : outcomeOf i s' = outcomeOf i s :=
    SameInputs.outcomeOf ⟨hbuf, hsrcAddr, hsrcLen, hdstAddr, hdstCap, harg0, harg1, harg2, hparity, hchunk, hcomp, hmargin,
      hmaxLen, hsource⟩
  cases h : outcomeOf i s with
  | ok c =>
    exact .inl ⟨_, _, _, _, _, _, ends_of_finish ((exec_eq i s).trans (congrArg _ h)),
      ends_of_finish ((exec_eq i s').trans (congrArg _ (hsame.trans h)))⟩
  | error f =>
    obtain rfl := outcomeOf_error h
    exact .inr ⟨halts_of_finish ((exec_eq i s).trans (congrArg _ h)),
      halts_of_finish ((exec_eq i s').trans (congrArg _ (hsame.trans h)))⟩

/-! ### Repeating a command (R73) -/

theorem readsRam_of_writesRam {i : Instr} (h : writesRam i = true) : readsRam i = true := by
  cases i with
  | luma => cases h
  | _ => rfl

/-- A completion leaves the SRC bytes of its operation as they were: its output lies in the DST range, apart from them. -/
theorem readByte_source_of_complete {i : Instr} {s : State} {c : Completion} (h : outcomeOf i s = .ok c) {k : Nat}
    (hk : k < srcBytes i s) :
    readByte (complete s c).mem (s.srcAddr.toNat + k) = readByte s.mem (s.srcAddr.toNat + k) := by
  rw [complete_mem, readByte_putBytes, if_neg]
  rintro ⟨hlow, hhigh⟩
  obtain ⟨-, hout | ⟨hcheck, ⟨hw, -⟩, hfits⟩⟩ := outcomeOf_ok h
  · rw [hout] at hhigh
    exact absurd hhigh (Nat.not_lt.2 hlow)
  · obtain ⟨-, -, hapart⟩ := (commonCheck_eq_none_iff i s).1 hcheck
    have := hapart (readsRam_of_writesRam hw) hw
    omega

/-- Storing the same bytes again changes no byte. -/
theorem readByte_putBytes_putBytes (m : Memory) (addr : Nat) (bs : List Byte) (a : Nat) :
    readByte (putBytes (putBytes m addr bs) addr bs) a = readByte (putBytes m addr bs) a := by
  rw [readByte_putBytes, readByte_putBytes]
  split
  · rfl
  · rfl

/-- Settles O39: after a completion the operands and SRC bytes are as before (`readByte_source_of_complete`), so the outcome
is the same completion again. -/
theorem repeatingACommandGivesTheSameState : Obligations.RepeatingACommandGivesTheSameState := by
  unfold Obligations.RepeatingACommandGivesTheSameState
  intro i s t u hx hrun hu
  rcases exec_cases hx with hhalt | ⟨c, hc, rfl⟩
  · exact absurd hhalt hrun
  · subst hu
    have hsame := SameInputs.outcomeOf (i := i) (s := s)
      (s' := { complete s c with phase := .busy, done := false, valid := false, rc := .success })
      ⟨rfl, rfl, rfl, rfl, rfl, rfl, rfl, rfl, rfl, rfl, rfl, rfl, rfl, fun _ hk => readByte_source_of_complete hc hk⟩
    refine ⟨_, (exec_eq i _).trans (congrArg _ (hsame.trans hc)), fun a => ?_, rfl⟩
    exact readByte_putBytes_putBytes _ _ _ a

end Sys2Proof.Machine


/-! The host's accesses (10_state.md, 20_memory.md sections 1 and 5) and the resets (70_reset_and_hazards.md): what a
register access does in each phase, the byte port with and without a race, irq, and what each reset leaves. -/

namespace Sys2Proof.Machine

/-! ### Which register an access reaches (R21, R22) -/

theorem regAt_eq_some {offset : Nat} (haligned : offset % 4 = 0) (hlt : offset < 0x80) :
    regAt offset 4 = some ((regMap.lookup offset).getD .reserved) := if_pos ⟨rfl, haligned, hlt⟩

theorem regAt_eq_none {offset size : Nat} (h : ¬ (size = 4 ∧ offset % 4 = 0 ∧ offset ≤ 0x7C)) :
    regAt offset size = none := by
  refine if_neg ?_
  rintro ⟨hsize, haligned, hlt⟩
  exact h ⟨hsize, haligned, by omega⟩

/-- Settles O43: a bad access reaches no register, and then only the fault record changes, whether it reads or writes. -/
theorem badRegisterAccessIsBusError : Obligations.BadRegisterAccessIsBusError := by
  unfold Obligations.BadRegisterAccessIsBusError
  intro s offset size v rest e hbad he hi
  have hnone := regAt_eq_none hbad
  rcases he with rfl | rfl
  · rw [step_cons hi, takeInput_host (by simp), hostEvent, hostRegRead, hnone]
    rfl
  · rw [step_cons hi, takeInput_host (by simp), hostEvent, hostRegWrite, hnone]
    rfl

/-! ### Register reads (R22–R34) -/

/-- The pending events are no part of what a register reads. -/
theorem readReg_inputs (s : State) (rest : List Input) (r : RegName) : readReg { s with inputs := rest } r = readReg s r := by
  cases r <;> rfl

theorem step_regRead {s : State} {offset size : Nat} {rest : List Input} {r : RegName}
    (hi : s.inputs = .regRead offset size :: rest) (hr : regAt offset size = some r) :
    step s = .next { s with inputs := rest, readData := some (readReg s r) } := by
  rw [step_cons hi, takeInput_host (by simp), hostEvent, hostRegRead, hr]
  simp only [readReg_inputs]

/-- The STATUS word, its BUSY bit read off the phase (R25). -/
theorem statusWord_eq (s : State) :
    statusWord s = BitVec.ofNat 32 ((if s.phase = .busy then 1 else 0) + 2 * s.done.toNat + 4 * s.valid.toNat
      + 8 * s.werr.toNat + 256 * s.rc.code.toNat) := by
  have hbusy : (busy s).toNat = if s.phase = .busy then 1 else 0 := by
    rw [busy]
    cases s.phase <;> rfl
  rw [statusWord, hbusy]

theorem cfgMaxlenWord_eq (s : State) : cfgMaxlenWord s = BitVec.ofNat 32 s.maxLen.toNat := by
  rw [cfgMaxlenWord, BitVec.ofNat_toNat]

/-- The 32 slots of the register space, each with what it reads as. -/
def slotWords (s : State) : List (Nat × Word) :=
  (List.range 32).map fun k => (4 * k, readReg s ((regMap.lookup (4 * k)).getD .reserved))

theorem step_regRead_slot {s : State} {offset : Nat} {v : Word} {rest : List Input}
    (hi : s.inputs = .regRead offset 4 :: rest) (h : (offset, v) ∈ slotWords s) :
    step s = .next { s with inputs := rest, readData := some v } := by
  obtain ⟨k, hk, hslot⟩ := List.mem_map.1 h
  obtain ⟨rfl, rfl⟩ := Prod.mk.inj hslot
  have hk := List.mem_range.1 hk
  exact step_regRead hi (regAt_eq_some (by omega) (by omega))

/-- Settles O44: the obligation's table evaluates to `slotWords`, with STATUS and CFG_MAXLEN by their word lemmas. -/
theorem registerReads : Obligations.RegisterReads := by
  unfold Obligations.RegisterReads
  intro s offset v rest hi h
  refine step_regRead_slot hi ?_
  rw [← statusWord_eq, ← cfgMaxlenWord_eq] at h
  exact h

/-! ### Register writes (R22–R34, R42) -/

/-- The read-only registers and the reserved offsets, which ignore a write (R22). -/
def RegName.ignoresWrites : RegName → Bool
  | .id | .res0 | .res1 | .res2 | .res3 | .reserved => true
  | _ => false

/-- CMD and the operand, ARG and CFG_ registers, whose writes are dropped while BUSY (R42). -/
def RegName.dropsWhileBusy : RegName → Bool
  | .ctrl | .status => false
  | r => !r.ignoresWrites

theorem writeReg_of_ignored (s : State) (v : Word) {r : RegName} (h : r.ignoresWrites = true) : writeReg s v r = s := by
  cases r with
  | id | res0 | res1 | res2 | res3 | reserved => rfl
  | _ => cases h

theorem writeReg_of_dropped {s : State} (v : Word) {r : RegName} (hb : s.phase = .busy) (h : r.dropsWhileBusy = true) :
    writeReg s v r = dropWrite s := by
  cases r with
  | ctrl | status | id | res0 | res1 | res2 | res3 | reserved => cases h
  | _ => exact unlessBusy_of_busy _ hb

/-- A write to an offset that reaches a register of a given kind. -/
theorem step_regWrite_of_any {s : State} {offset : Nat} {v : Word} {rest : List Input} {kind : RegName → Bool}
    (hi : s.inputs = .regWrite offset 4 v :: rest) (hkind : (regAt offset 4).any kind = true) :
    ∃ r, kind r = true ∧ step s = .next (writeReg { s with inputs := rest } v r) := by
  obtain ⟨r, hr, hk⟩ := Option.any_eq_true _ _ |>.1 hkind
  exact ⟨r, hk, step_regWrite hi hr⟩

theorem regAt_ignored :
    ∀ offset ∈ [0x00, 0x30, 0x34, 0x38, 0x3C, 0x58, 0x5C, 0x60, 0x64, 0x68, 0x6C, 0x70, 0x74, 0x78, 0x7C],
      (regAt offset 4).any RegName.ignoresWrites = true := by decide

theorem regAt_dropped :
    ∀ offset ∈ [0x0C, 0x10, 0x14, 0x18, 0x1C, 0x20, 0x24, 0x28, 0x2C, 0x40, 0x44, 0x48, 0x4C, 0x50, 0x54],
      (regAt offset 4).any RegName.dropsWhileBusy = true := by decide

theorem step_regWrite_ignored {s : State} {offset : Nat} {v : Word} {rest : List Input}
    (hi : s.inputs = .regWrite offset 4 v :: rest)
    (h : offset ∈ [0x00, 0x30, 0x34, 0x38, 0x3C, 0x58, 0x5C, 0x60, 0x64, 0x68, 0x6C, 0x70, 0x74, 0x78, 0x7C]) :
    step s = .next { s with inputs := rest } := by
  obtain ⟨r, hr, hstep⟩ := step_regWrite_of_any hi (regAt_ignored offset h)
  rw [hstep, writeReg_of_ignored _ v hr]

/-- While IDLE a write that is not dropped takes its effect. -/
theorem step_regWrite_of_idle {s t : State} {offset : Nat} {v : Word} {rest : List Input} (r : RegName)
    (hp : s.phase = .idle) (hi : s.inputs = .regWrite offset 4 v :: rest) (hr : regAt offset 4 = some r)
    (ht : writeReg { s with inputs := rest } v r = unlessBusy { s with inputs := rest } t) : step s = .next t := by
  have hidle : unlessBusy { s with inputs := rest } t = t := unlessBusy_of_idle t hp
  rw [step_regWrite hi hr, ht, hidle]

theorem extractLsb'_eight_eight (v : Word) : v.extractLsb' 8 8 = BitVec.ofNat 8 (v.toNat / 256) := by
  rw [BitVec.extractLsb', Nat.shiftRight_eq_div_pow]

theorem getLsbD_zero_eq_decide {w : Nat} (v : BitVec w) : v.getLsbD 0 = decide (v.toNat % 2 = 1) := by
  rw [BitVec.getLsbD, Nat.testBit_zero]

/-- Settles O45: while IDLE each write takes the effect that `writeReg` gives its register. -/
theorem idleRegisterWrites : Obligations.IdleRegisterWrites := by
  unfold Obligations.IdleRegisterWrites
  intro s u offset v rest hp hi hu
  subst hu
  refine ⟨?srcAddr, ?srcLen, ?dstAddr, ?dstCap, ?arg0, ?arg1, ?arg2, ?arg3, ?fec, ?chunk, ?comp, ?margin, ?bitdur, ?maxlen,
    step_regWrite_ignored hi⟩
  case srcAddr => rintro rfl; exact step_regWrite_of_idle .srcAddr hp hi rfl rfl
  case srcLen => rintro rfl; exact step_regWrite_of_idle .srcLen hp hi rfl rfl
  case dstAddr => rintro rfl; exact step_regWrite_of_idle .dstAddr hp hi rfl rfl
  case dstCap => rintro rfl; exact step_regWrite_of_idle .dstCap hp hi rfl rfl
  case arg0 => rintro rfl; exact step_regWrite_of_idle .arg0 hp hi rfl rfl
  case arg1 => rintro rfl; exact step_regWrite_of_idle .arg1 hp hi rfl rfl
  case arg2 => rintro rfl; exact step_regWrite_of_idle .arg2 hp hi rfl rfl
  case arg3 => rintro rfl; exact step_regWrite_of_idle .arg3 hp hi rfl rfl
  case fec =>
    rintro rfl
    rw [← extractLsb'_eight_eight]
    exact step_regWrite_of_idle .cfgFec hp hi rfl rfl
  case chunk => rintro rfl; exact step_regWrite_of_idle .cfgChunk hp hi rfl rfl
  case comp =>
    rintro rfl
    rw [← getLsbD_zero_eq_decide]
    exact step_regWrite_of_idle .cfgComp hp hi rfl rfl
  case margin => rintro rfl; exact step_regWrite_of_idle .cfgMargin hp hi rfl rfl
  case bitdur => rintro rfl; exact step_regWrite_of_idle .cfgBitdur hp hi rfl rfl
  case maxlen => rintro rfl; exact step_regWrite_of_idle .cfgMaxlen hp hi rfl rfl

/-! ### CTRL and STATUS, written in every phase (R24, R25) -/

/-- A CTRL write without SOFT_RESET takes IRQ_EN (R24). -/
theorem step_ctrlWrite {s : State} {v : Word} {rest : List Input} (hi : s.inputs = .regWrite 0x04 4 v :: rest)
    (hv : v.getLsbD 1 = false) : step s = .next { s with inputs := rest, irqEn := v.getLsbD 0 } := by
  have hnot : ¬ v.getLsbD 1 = true := by rw [hv]; exact Bool.false_ne_true
  rw [step_regWrite (r := .ctrl) hi rfl, writeReg, if_neg hnot]

/-- A STATUS write clears DONE and WERR where it has a 1 (R25). -/
theorem step_statusWrite {s : State} {v : Word} {rest : List Input} (hi : s.inputs = .regWrite 0x08 4 v :: rest) :
    step s = .next { s with inputs := rest, done := w1c s.done (v.getLsbD 1), werr := w1c s.werr (v.getLsbD 3) } :=
  step_regWrite (r := .status) hi rfl

theorem w1c_eq_ite (old written : Bool) : w1c old written = if written then false else old := by
  cases old <;> cases written <;> rfl

/-- Settles O49: `w1c` is the case distinction of R25. -/
theorem statusWriteOneToClear : Obligations.StatusWriteOneToClear := by
  unfold Obligations.StatusWriteOneToClear
  intro s v rest hi
  rw [step_statusWrite hi, w1c_eq_ite, w1c_eq_ite]

/-- Settles O46: the dropped registers, CTRL, STATUS and the registers that ignore a write, and a read of any slot. -/
theorem writesWhileBusy : Obligations.WritesWhileBusy := by
  unfold Obligations.WritesWhileBusy
  intro s u offset v rest hb hu
  subst hu
  refine ⟨fun hi => ⟨fun h => ?dropped, ?ctrl, ?status, step_regWrite_ignored hi⟩, fun hi haligned hle => ?read⟩
  case dropped =>
    obtain ⟨r, hr, hstep⟩ := step_regWrite_of_any hi (regAt_dropped offset h)
    rw [hstep, writeReg_of_dropped (s := { s with inputs := rest }) v hb hr]
    rfl
  case ctrl => rintro rfl hv; exact step_ctrlWrite hi hv
  case status => rintro rfl; exact step_statusWrite hi
  case read => exact ⟨_, step_regRead hi (regAt_eq_some haligned (by omega))⟩

/-! ### The interrupt output (R280) -/

theorem irq_eq_true_iff (s : State) : irq s = true ↔ s.done = true ∧ s.irqEn = true := Bool.and_eq_true_iff

/-- Settles O48: irq is computed from DONE and IRQ_EN, so each event that writes one of them shows at once. -/
theorem interruptIsALevel : Obligations.InterruptIsALevel := by
  unfold Obligations.InterruptIsALevel
  refine ⟨irq_eq_true_iff, fun i s t hx => ?completion, fun s v rest hi hv => ?enable, fun s rest hi => ?acknowledge,
    fun s w rest hp hi => ?accept⟩
  case completion =>
    rcases exec_cases hx with hhalt | ⟨c, -, rfl⟩
    · exact .inl hhalt
    · exact .inr (Bool.true_and _)
  case enable => exact ⟨_, step_ctrlWrite hi hv, rfl, rfl⟩
  case acknowledge =>
    have hdone : w1c s.done ((0x00000002 : Word).getLsbD 1) = false := Bool.and_false _
    have hwerr : w1c s.werr ((0x00000002 : Word).getLsbD 3) = s.werr := Bool.and_true _
    have hstep := step_statusWrite hi
    rw [hdone, hwerr] at hstep
    exact ⟨_, hstep, rfl, Bool.false_and _⟩
  case accept => exact ⟨_, (commandAcceptance s w rest hi).1 hp, Bool.false_and _⟩

/-! ### The byte port (R61, R77) -/

/-- No operation runs while IDLE, so no address is in its ranges. -/
theorem inRunningRange_of_idle {s : State} (hp : s.phase = .idle) (a : Nat) : inRunningRange s a = false := by
  rw [inRunningRange, runningOp, hp]

theorem runningOp_eq_some_iff (s : State) (i : Instr) : runningOp s = some i ↔ s.phase = .busy ∧ decode s.cmd = .ok i := by
  rw [runningOp]
  cases s.phase <;> cases decode s.cmd <;> simp

theorem inSrcRange_or_inDstRange_iff (i : Instr) (s : State) (a : Nat) :
    (inSrcRange i s a || inDstRange i s a) = true ↔ InOperationRanges i s a := by
  simp [inSrcRange, inDstRange, InOperationRanges, and_assoc]

/-- The running ranges are those of the operation that CMD names; an illegal command word has none (log entry 14). -/
theorem inRunningRange_iff (s : State) (a : Nat) :
    inRunningRange s a = true ↔ s.phase = .busy ∧ ∃ i, decode s.cmd = .ok i ∧ InOperationRanges i s a := by
  rw [inRunningRange]
  cases h : runningOp s with
  | none =>
    refine iff_of_false Bool.false_ne_true ?_
    rintro ⟨hb, i, hd, -⟩
    rw [(runningOp_eq_some_iff s i).2 ⟨hb, hd⟩] at h
    cases h
  | some i =>
    obtain ⟨hb, hd⟩ := (runningOp_eq_some_iff s i).1 h
    refine (inSrcRange_or_inDstRange_iff i s a).trans ⟨fun hr => ⟨hb, i, hd, hr⟩, ?_⟩
    rintro ⟨-, j, hj, hr⟩
    obtain rfl : i = j := Except.ok.inj (hd.symm.trans hj)
    exact hr

section BytePort
variable {s : State} {a : Nat} {v : Byte} {rest : List Input}

theorem step_bufRead (hi : s.inputs = .bufRead a :: rest) : step s = .next (hostBufRead { s with inputs := rest } a) := by
  rw [step_cons hi, takeInput_host (by simp), hostEvent]

theorem step_bufWrite (hi : s.inputs = .bufWrite a v :: rest) :
    step s = .next (hostBufWrite { s with inputs := rest } a v) := by
  rw [step_cons hi, takeInput_host (by simp), hostEvent]

/-- An access at or past BUF_BYTES records BUS_ERROR and does nothing else, in every phase. -/
theorem step_buf_of_past (h : s.bufBytes ≤ a) (hi : s.inputs = .bufRead a :: rest ∨ s.inputs = .bufWrite a v :: rest) :
    step s = .next (recordFault { s with inputs := rest } .busError) := by
  rcases hi with hi | hi
  · rw [step_bufRead hi, hostBufRead]
    exact congrArg _ (if_pos h)
  · rw [step_bufWrite hi, hostBufWrite]
    exact congrArg _ (if_pos h)

theorem unlessRace_of_apart {raced ok : State} (h : inRunningRange s a = false) : unlessRace s a raced ok = ok := by
  rw [unlessRace, h, if_neg Bool.false_ne_true]

theorem unlessRace_of_race {raced ok : State} (h : inRunningRange s a = true) :
    unlessRace s a raced ok = recordFault raced .hostRace := if_pos h

/-- What an access to a byte in the running ranges does: HOST_RACE is recorded, and nothing but the fault record changes. -/
theorem step_buf_of_race (hlt : a < s.bufBytes) (hrace : inRunningRange { s with inputs := rest } a = true)
    (hi : s.inputs = .bufRead a :: rest ∨ s.inputs = .bufWrite a v :: rest) :
    ∃ t, step s = .next t ∧ t.faults.hostRace = true ∧ t = { s with inputs := rest, faults := t.faults } := by
  have hnot : ¬ ({ s with inputs := rest } : State).bufBytes ≤ a := Nat.not_le.2 hlt
  rcases hi with hi | hi
  · rw [step_bufRead hi, hostBufRead, if_neg hnot]
    cases readByte ({ s with inputs := rest } : State).mem a with
    | none => exact ⟨_, congrArg _ (unlessRace_of_race hrace), rfl, rfl⟩
    | some b => exact ⟨_, congrArg _ (unlessRace_of_race hrace), rfl, rfl⟩
  · rw [step_bufWrite hi, hostBufWrite, if_neg hnot]
    exact ⟨_, congrArg _ (unlessRace_of_race hrace), rfl, rfl⟩

section Ordinary
variable (hlt : a < s.bufBytes) (hapart : inRunningRange { s with inputs := rest } a = false)
include hlt hapart

theorem step_bufRead_of_uninit (hi : s.inputs = .bufRead a :: rest) (hbyte : readByte s.mem a = none) :
    step s = .next (recordFault { s with inputs := rest } .uninitRead) := by
  rw [step_bufRead hi, hostBufRead, if_neg (Nat.not_le.2 hlt), hbyte]
  exact congrArg _ (unlessRace_of_apart hapart)

theorem step_bufRead_of_init {b : Byte} (hi : s.inputs = .bufRead a :: rest) (hbyte : readByte s.mem a = some b) :
    step s = .next { s with inputs := rest, readData := some (b.setWidth 32) } := by
  rw [step_bufRead hi, hostBufRead, if_neg (Nat.not_le.2 hlt), hbyte]
  exact congrArg _ (unlessRace_of_apart hapart)

theorem step_bufWrite_of_apart (hi : s.inputs = .bufWrite a v :: rest) :
    ∃ t, step s = .next t ∧ t = { s with inputs := rest, mem := t.mem }
      ∧ ∀ x, readByte t.mem x = if x = a then some v else readByte s.mem x := by
  rw [step_bufWrite hi, hostBufWrite, if_neg (Nat.not_le.2 hlt), unlessRace_of_apart hapart]
  refine ⟨_, rfl, rfl, fun x => ?_⟩
  rw [readByte_writeByte]
  simp only [eq_comm]

end Ordinary
end BytePort

/-- Settles O50: while IDLE every access to an existing byte is an ordinary one. -/
theorem hostBufferPort : Obligations.HostBufferPort := by
  unfold Obligations.HostBufferPort
  intro s u a v rest hp hu
  subst hu
  have hapart : inRunningRange { s with inputs := rest } a = false := inRunningRange_of_idle hp a
  exact ⟨fun hi h => step_buf_of_past h hi, fun hi hlt => step_bufRead_of_uninit hlt hapart hi,
    fun _ hi hlt => step_bufRead_of_init hlt hapart hi, fun hi hlt => step_bufWrite_of_apart hlt hapart hi⟩

/-- Settles O51: while BUSY the operation that CMD names decides whether an access to an existing byte races
(`inRunningRange_iff`); outside its ranges the access is an ordinary one. -/
theorem hostRace : Obligations.HostRace := by
  unfold Obligations.HostRace
  intro s u a v rest hb hu
  subst hu
  refine ⟨fun h hi => step_buf_of_past h hi, fun i hd hlt hin hi => ?race, fun hlt hout => ?ordinary⟩
  case race => exact step_buf_of_race hlt ((inRunningRange_iff _ a).2 ⟨hb, i, hd, hin⟩) hi
  case ordinary =>
    have hapart : inRunningRange { s with inputs := rest } a = false := by
      refine Bool.eq_false_iff.2 fun hrace => ?_
      obtain ⟨-, i, hd, hin⟩ := (inRunningRange_iff _ a).1 hrace
      exact hout i hd hin
    exact ⟨fun hi => step_bufRead_of_uninit hlt hapart hi, fun _ hi => step_bufRead_of_init hlt hapart hi,
      fun hi => step_bufWrite_of_apart hlt hapart hi⟩

/-! ### Power-on and the reset input (R300, R302) -/

/-- The registers of R21 with their values at power-on (R300). -/
def powerOnWords (n : Nat) : List (RegName × Word) :=
  [.id, .ctrl, .status, .cmd, .srcAddr, .srcLen, .dstAddr, .dstCap, .arg0, .arg1, .arg2, .arg3, .res0, .res1, .res2, .res3,
    .cfgFec, .cfgChunk, .cfgComp, .cfgMargin, .cfgBitdur, .cfgMaxlen, .reserved].map fun r =>
      (r, readReg (State.powerOn n) r)

theorem readReg_of_mem_powerOnWords {n : Nat} {r : RegName} {v : Word} (h : (r, v) ∈ powerOnWords n) :
    readReg (State.powerOn n) r = v := by
  obtain ⟨r', -, hrow⟩ := List.mem_map.1 h
  obtain ⟨rfl, rfl⟩ := Prod.mk.inj hrow
  rfl

/-- Settles O52: the obligation's table evaluates to `powerOnWords`. -/
theorem powerOnState : Obligations.PowerOnState := by
  unfold Obligations.PowerOnState
  rintro n s rfl
  exact ⟨fun r v h => readReg_of_mem_powerOnWords h, rfl, rfl, fun _ => rfl, rfl, rfl, Config.resetBufBytes, by decide,
    by decide, rfl⟩

/-- Settles O53: the event is `resetByInput`, whose fields are those of the power-on state. -/
theorem resetInputState : Obligations.ResetInputState := by
  unfold Obligations.ResetInputState
  intro s rest hi
  rw [step_cons hi, takeInput_host (by simp), hostEvent]
  rfl

/-! ### Soft reset (R303) -/

theorem readByte_abortByte (fresh : Nat) (m : Memory) (x a : Nat) :
    readByte (abortByte fresh m x) a = readByte m a ∨ ((readByte (abortByte fresh m x) a).isSome = true ∧ a = x) := by
  rw [abortByte]
  cases Config.abortedByte fresh x with
  | none => exact .inl rfl
  | some v =>
    by_cases h : x = a
    · subst h
      exact .inr ⟨by rw [readByte_writeByte_same]; rfl, rfl⟩
    · exact .inl (readByte_writeByte_other m v h)

/-- An abort over a list of addresses: each byte as it was, or initialised at a listed address. -/
theorem readByte_foldl_abortByte (fresh : Nat) (as : List Nat) (m : Memory) (a : Nat) :
    readByte (as.foldl (abortByte fresh) m) a = readByte m a
      ∨ ((readByte (as.foldl (abortByte fresh) m) a).isSome = true ∧ a ∈ as) := by
  induction as generalizing m with
  | nil => exact .inl rfl
  | cons x as ih =>
    rw [List.foldl_cons]
    rcases ih (abortByte fresh m x) with hrest | ⟨hsome, hmem⟩
    · rw [hrest]
      exact (readByte_abortByte fresh m x a).imp_right fun ⟨hsome, hx⟩ => ⟨hsome, hx ▸ List.mem_cons_self⟩
    · exact .inr ⟨hsome, List.mem_cons_of_mem x hmem⟩

/-- The aborted range: the existing addresses of the DST range of an operation in progress that writes (R96). -/
theorem mem_abortedRange {s : State} {a : Nat} (h : a ∈ abortedRange s) :
    a < s.bufBytes ∧ s.phase = .busy ∧ ∃ i, decode s.cmd = .ok i ∧ writesRam i = true ∧ s.dstAddr.toNat ≤ a
      ∧ a < s.dstAddr.toNat + s.dstCap.toNat := by
  rw [abortedRange] at h
  cases hop : runningOp s with
  | none =>
    rw [hop] at h
    cases h
  | some i =>
    rw [hop] at h
    obtain ⟨hb, hd⟩ := (runningOp_eq_some_iff s i).1 hop
    by_cases hw : writesRam i = true
    · simp only [if_pos hw, List.mem_range'_1] at h
      exact ⟨by omega, hb, i, hd, hw, h.1, by omega⟩
    · simp only [if_neg hw] at h
      cases h

theorem softReset_of_idle {s : State} (hp : s.phase = .idle) : softReset s = resetRegisters s := by
  rw [softReset, hp]

theorem softReset_mem_of_idle {s : State} (hp : s.phase = .idle) : (softReset s).mem = s.mem := by
  rw [softReset_of_idle hp, resetRegisters_mem]

theorem softReset_of_busy {s : State} (hb : s.phase = .busy) :
    softReset s = { resetRegisters s with mem := abortedMem s, freeCount := s.freeCount + 1 } := by
  rw [softReset, hb]

/-- What a soft reset leaves: the power-on registers beside buffer RAM, the fault record and the model's own fields. -/
theorem softReset_registers (s : State) :
    softReset s = { State.powerOn s.bufBytes with
      mem := (softReset s).mem, faults := s.faults, inputs := s.inputs, readData := s.readData
      freeCount := (softReset s).freeCount } := by
  cases hp : s.phase with
  | idle => rw [softReset_of_idle hp]; rfl
  | busy => rw [softReset_of_busy hp]; rfl

/-- A byte after a soft reset: as it was, or initialised in the aborted range. -/
theorem readByte_softReset (s : State) (a : Nat) :
    readByte (softReset s).mem a = readByte s.mem a
      ∨ ((readByte (softReset s).mem a).isSome = true ∧ a ∈ abortedRange s) := by
  cases hp : s.phase with
  | idle =>
    rw [softReset_of_idle hp]
    exact .inl rfl
  | busy =>
    rw [softReset_of_busy hp]
    exact readByte_foldl_abortByte s.freeCount (abortedRange s) s.mem a

/-- Settles O54: a CTRL write with SOFT_RESET is `softReset`, whose registers and bytes are said above. -/
theorem softResetState : Obligations.SoftResetState := by
  unfold Obligations.SoftResetState
  intro s v rest hi hv
  have hstep : step s = .next (softReset { s with inputs := rest }) := by
    rw [step_regWrite (r := .ctrl) hi rfl, writeReg, if_pos hv]
  refine ⟨_, hstep, softReset_registers _, fun hp => ?idle, fun a => ?byte⟩
  case idle => exact softReset_mem_of_idle (s := { s with inputs := rest }) hp
  case byte =>
    refine (readByte_softReset { s with inputs := rest } a).imp_right fun ⟨hsome, hmem⟩ => ?_
    obtain ⟨-, hb, hop⟩ := mem_abortedRange hmem
    exact ⟨hsome, hb, hop⟩

end Sys2Proof.Machine


/-! One step of the whole machine (R18, R76): what the core's turn and each host event can do, said once, and what every step
keeps: the STATUS fields, buffer RAM, the fault record, a stuck core, and the list of what writes the status flags (R40). -/

namespace Sys2Proof.Machine

/-! ### What an agent's move can do -/

/-- What the core's turn can do (R97). -/
inductive CoreEffect (s : State) : State → Prop
  /-- The core has no step to take. -/
  | waited : CoreEffect s s
  /-- The running operation meets an uninitialised byte. -/
  | halted (busy : s.phase = .busy) : CoreEffect s (halt s .uninitRead)
  /-- The running operation completes; what it writes exists. -/
  | completed {c : Completion} (busy : s.phase = .busy) (running : s.stuck = false)
      (inside : c.out = [] ∨ s.dstAddr.toNat + c.out.length ≤ s.bufBytes) : CoreEffect s (complete s c)

/-- What an event of the host or the platform can do (R21, R22, R42, R61, R302, R303). -/
inductive HostEffect (s : State) : Input → State → Prop
  /-- A read, an ignored write or a faulting access: only the fault record and what the host holds. -/
  | observed {e : Input} {faults : FaultSet} {readData : Option Word}
      (grows : ∀ f, s.faults.has f = true → faults.has f = true) :
      HostEffect s e { s with faults := faults, readData := readData }
  /-- A byte is written. -/
  | stored {a : Nat} {v : Byte} (inside : a < s.bufBytes) :
      HostEffect s (.bufWrite a v) { s with mem := writeByte s.mem a v }
  /-- IRQ_EN is written. -/
  | enabled {v : Word} : HostEffect s (.regWrite 0x04 4 v) { s with irqEn := v.getLsbD 0 }
  /-- SOFT_RESET is written. -/
  | softReset {v : Word} (hv : v.getLsbD 1 = true) : HostEffect s (.regWrite 0x04 4 v) (softReset s)
  /-- STATUS is written. -/
  | acknowledged {v : Word} :
      HostEffect s (.regWrite 0x08 4 v) { s with done := w1c s.done (v.getLsbD 1), werr := w1c s.werr (v.getLsbD 3) }
  /-- A command word is accepted. -/
  | accepted {w : Word} (idle : s.phase = .idle) : HostEffect s (.regWrite 0x0C 4 w) (acceptCommand s w)
  /-- A write is dropped. -/
  | dropped {offset : Nat} {v : Word} (busy : s.phase = .busy) : HostEffect s (.regWrite offset 4 v) (dropWrite s)
  /-- An operand, ARG or CFG_ register is written. -/
  | configured {offset : Nat} {v srcAddr srcLen dstAddr dstCap arg0 arg1 arg2 arg3 cfgChunk cfgMargin cfgBitdur : Word}
      {dataShards parityShards : Byte} {compEn : Bool} {maxLen : BitVec 16} (idle : s.phase = .idle) :
      HostEffect s (.regWrite offset 4 v) { s with
        srcAddr := srcAddr, srcLen := srcLen, dstAddr := dstAddr, dstCap := dstCap, arg0 := arg0, arg1 := arg1
        arg2 := arg2, arg3 := arg3, dataShards := dataShards, parityShards := parityShards, cfgChunk := cfgChunk
        compEn := compEn, cfgMargin := cfgMargin, cfgBitdur := cfgBitdur, maxLen := maxLen }
  /-- The reset input is asserted. -/
  | resetInput : HostEffect s .resetInput (resetByInput s)

theorem coreEffect_exec {i : Instr} {s t : State} (hb : s.phase = .busy) (hs : s.stuck = false)
    (h : exec i s = .next t) : CoreEffect s t := by
  rcases exec_cases h with rfl | ⟨c, hc, rfl⟩
  · exact .halted hb
  · refine .completed hb hs ((outcomeOf_ok hc).2.imp_right ?_)
    rintro ⟨hcheck, ⟨hw, -⟩, hfits⟩
    have hdst := ((commonCheck_eq_none_iff i s).1 hcheck).2.1 hw
    omega

theorem coreEffect_coreTurn {s t : State} (h : coreTurn s = .next t) : CoreEffect s t := by
  by_cases hturn : s.phase = .idle ∨ s.stuck = true
  · rw [coreTurn_disabled hturn] at h
    cases h
    exact .waited
  · obtain ⟨hp, hs⟩ := not_or.1 hturn
    have hb : s.phase = .busy := by
      cases hphase : s.phase
      · exact absurd hphase hp
      · rfl
    have hs := Bool.eq_false_iff.2 hs
    rw [coreTurn_enabled hb hs] at h
    cases hd : decode s.cmd with
    | ok i =>
      rw [runCommand_ok hd] at h
      exact coreEffect_exec hb hs h
    | error e =>
      rw [runCommand_error hd] at h
      cases h
      exact .completed hb hs (.inl rfl)

section HostEvents
variable {s t : State}

/-- An event that changes nothing. -/
theorem HostEffect.ignored {e : Input} : HostEffect s e s := .observed (faults := s.faults) fun _ => id

theorem FaultSet.has_add (f : FaultSet) (n m : FaultName) (h : f.has m = true) : (f.add n).has m = true := by
  cases n with
  | busError => cases m with | busError => rfl | _ => exact h
  | uninitRead => cases m with | uninitRead => rfl | _ => exact h
  | hostRace => cases m with | hostRace => rfl | _ => exact h

theorem HostEffect.faulted {e : Input} (f : FaultName) : HostEffect s e (recordFault s f) :=
  .observed (faults := s.faults.add f) (readData := s.readData) fun m => s.faults.has_add f m

/-- The offset of a register that the map lists (R21). -/
theorem mem_regMap_of_regAt {offset size : Nat} {r : RegName} (h : regAt offset size = some r) :
    size = 4 ∧ (r = .reserved ∨ (offset, r) ∈ regMap) := by
  rw [regAt] at h
  split at h
  · next haccess =>
    refine ⟨haccess.1, ?_⟩
    cases hlookup : regMap.lookup offset with
    | none =>
      rw [hlookup] at h
      exact .inl (Option.some.inj h).symm
    | some r' =>
      rw [hlookup] at h
      obtain rfl : r' = r := Option.some.inj h
      obtain ⟨before, after, hmap, -⟩ := List.lookup_eq_some_iff.1 hlookup
      exact .inr (by rw [hmap]; simp)
  · cases h

/-- The three registers that the host writes with an effect of their own, by their offsets. -/
theorem offset_of_mem_regMap : ∀ row ∈ regMap,
    (row.2 = .ctrl → row.1 = 0x04) ∧ (row.2 = .status → row.1 = 0x08) ∧ (row.2 = .cmd → row.1 = 0x0C) := by decide

theorem hostEffect_unlessBusy {offset : Nat} {v : Word}
    (h : s.phase = .idle → HostEffect s (.regWrite offset 4 v) t) :
    HostEffect s (.regWrite offset 4 v) (unlessBusy s t) := by
  cases hp : s.phase with
  | idle =>
    rw [unlessBusy_of_idle t hp]
    exact h hp
  | busy =>
    rw [unlessBusy_of_busy t hp]
    exact .dropped hp

theorem hostEffect_writeReg {offset size : Nat} (v : Word) {r : RegName} (hr : regAt offset size = some r) :
    HostEffect s (.regWrite offset size v) (writeReg s v r) := by
  obtain ⟨rfl, hrow⟩ := mem_regMap_of_regAt hr
  have hoffset : r ≠ .reserved →
      (r = .ctrl → offset = 0x04) ∧ (r = .status → offset = 0x08) ∧ (r = .cmd → offset = 0x0C) :=
    fun hne => offset_of_mem_regMap _ (hrow.resolve_left hne)
  cases r with
  | id | res0 | res1 | res2 | res3 | reserved => exact .ignored
  | ctrl =>
    obtain rfl := (hoffset nofun).1 rfl
    rw [writeReg]
    split
    · next hv => exact .softReset hv
    · exact .enabled
  | status =>
    obtain rfl := (hoffset nofun).2.1 rfl
    exact .acknowledged
  | cmd =>
    obtain rfl := (hoffset nofun).2.2 rfl
    exact hostEffect_unlessBusy .accepted
  | _ => exact hostEffect_unlessBusy .configured

theorem hostEffect_hostBufRead (a : Nat) : HostEffect s (.bufRead a) (hostBufRead s a) := by
  rw [hostBufRead]
  split
  · exact .faulted .busError
  · split
    · rw [unlessRace]
      split
      · exact .observed fun m h => FaultSet.has_add _ .hostRace m (s.faults.has_add .uninitRead m h)
      · exact .faulted .uninitRead
    · rw [unlessRace]
      split
      · exact .faulted .hostRace
      · exact .observed fun _ => id

theorem hostEffect_hostBufWrite (a : Nat) (v : Byte) : HostEffect s (.bufWrite a v) (hostBufWrite s a v) := by
  rw [hostBufWrite]
  split
  · exact .faulted .busError
  · next hlt =>
    rw [unlessRace]
    split
    · exact .faulted .hostRace
    · exact .stored (Nat.lt_of_not_le hlt)

theorem hostEffect_hostEvent (s : State) (e : Input) : HostEffect s e (hostEvent s e) := by
  cases e with
  | regRead offset size =>
    rw [hostEvent, hostRegRead]
    split
    · exact .observed fun _ => id
    · exact .faulted .busError
  | regWrite offset size v =>
    rw [hostEvent, hostRegWrite]
    split
    · next hr => exact hostEffect_writeReg v hr
    · exact .faulted .busError
  | bufRead a => exact hostEffect_hostBufRead a
  | bufWrite a v => exact hostEffect_hostBufWrite a v
  | resetInput => exact .resetInput
  | coreTurn => exact .ignored

end HostEvents

/-- A step is the core's turn, or the first pending event of the host, on the state that no longer has it pending. -/
theorem step_cases {s t : State} (h : step s = .next t) :
    (∃ rest, CoreHasTheTurn s ∧ CoreEffect { s with inputs := rest } t)
      ∨ ∃ e rest, s.inputs = e :: rest ∧ HostEffect { s with inputs := rest } e t := by
  cases hi : s.inputs with
  | nil =>
    refine .inl ⟨s.inputs, .inl hi, coreEffect_coreTurn ?_⟩
    rw [step_nil hi, lastTurn] at h
    split at h
    · cases h
    · exact h
  | cons e rest =>
    rw [step_cons hi] at h
    by_cases he : e = .coreTurn
    · subst he
      exact .inl ⟨rest, .inr ⟨rest, hi⟩, coreEffect_coreTurn h⟩
    · rw [takeInput_host he] at h
      cases h
      exact .inr ⟨e, rest, rfl, hostEffect_hostEvent _ e⟩

/-- What the core's turn and every host event keep, and the pending events have no part in, every step keeps. -/
theorem step_preserves {P : State → Prop} (hinputs : ∀ s rest, P s → P { s with inputs := rest })
    (hcore : ∀ s t, P s → CoreEffect s t → P t) (hhost : ∀ s e t, P s → HostEffect s e t → P t) {s t : State} (hs : P s)
    (h : step s = .next t) : P t := by
  rcases step_cases h with ⟨rest, -, heffect⟩ | ⟨e, rest, -, heffect⟩
  · exact hcore _ _ (hinputs s rest hs) heffect
  · exact hhost _ _ _ (hinputs s rest hs) heffect

/-! ### The STATUS fields (R25, R36, R266) -/

theorem w1c_eq_true {old written : Bool} (h : w1c old written = true) : old = true := (Bool.and_eq_true_iff.1 h).1

theorem statusConsistent_of_idle {s : State} (hp : s.phase = .idle) (hvalid : s.valid = s.rc.valid) : StatusConsistent s :=
  ⟨fun hb => absurd (hp.symm.trans hb) nofun, fun _ => hvalid, fun h => hvalid.symm.trans h⟩

theorem statusConsistent_powerOn (n : Nat) : StatusConsistent (State.powerOn n) := ⟨nofun, nofun, nofun⟩

theorem stuckConsistent_of_running {s : State} (h : s.stuck = false) : StuckConsistent s := fun hs => by
  rw [h] at hs
  cases hs

theorem CoreEffect.status {s t : State} (h : CoreEffect s t) (hs : StatusConsistent s ∧ StuckConsistent s) :
    StatusConsistent t ∧ StuckConsistent t := by
  cases h with
  | waited => exact hs
  | halted hb => exact ⟨hs.1, fun _ => ⟨hb, rfl⟩⟩
  | completed _ hrun _ => exact ⟨statusConsistent_of_idle rfl rfl, stuckConsistent_of_running hrun⟩

theorem HostEffect.status {s t : State} {e : Input} (h : HostEffect s e t) (hs : StatusConsistent s ∧ StuckConsistent s) :
    StatusConsistent t ∧ StuckConsistent t := by
  obtain ⟨⟨hbusy, hdone, hvalid⟩, hstuck⟩ := hs
  cases h with
  | observed grows =>
    exact ⟨⟨hbusy, hdone, hvalid⟩, fun h => ⟨(hstuck h).1, grows .uninitRead (hstuck h).2⟩⟩
  | stored | enabled | dropped | configured => exact ⟨⟨hbusy, hdone, hvalid⟩, hstuck⟩
  | acknowledged =>
    refine ⟨⟨fun hb => ⟨?_, (hbusy hb).2⟩, fun h => hdone (w1c_eq_true h), hvalid⟩, hstuck⟩
    show w1c s.done _ = false
    rw [(hbusy hb).1]
    rfl
  | accepted => exact ⟨⟨fun _ => ⟨rfl, rfl, rfl⟩, nofun, nofun⟩, stuckConsistent_of_running rfl⟩
  | softReset =>
    rw [softReset_registers]
    exact ⟨⟨nofun, nofun, nofun⟩, nofun⟩
  | resetInput => exact ⟨⟨nofun, nofun, nofun⟩, nofun⟩

/-- Settles O55: the core's turn and every host event keep the two invariants. -/
theorem everyStepKeepsStatusConsistent : Obligations.EveryStepKeepsStatusConsistent := by
  unfold Obligations.EveryStepKeepsStatusConsistent
  intro s t hstatus hstuck hstep
  exact step_preserves (P := fun s => StatusConsistent s ∧ StuckConsistent s) (fun _ _ h => h)
    (fun _ _ hs h => h.status hs) (fun _ _ _ hs h => h.status hs) ⟨hstatus, hstuck⟩ hstep

/-! ### Buffer RAM (R35) -/

theorem memoryConsistent_writeByte {s : State} {m : Memory} {a : Nat} {v : Byte} (ha : a < s.bufBytes)
    (hm : MemoryConsistent { s with mem := m }) : MemoryConsistent { s with mem := writeByte m a v } := by
  obtain ⟨hwf, hcells⟩ := hm
  refine ⟨writeByte_wf m a v hwf, fun c hc => ?_⟩
  rcases mem_writeByte hc with rfl | hc
  · exact ha
  · exact hcells c hc

/-- An abort writes existing addresses only (R303). -/
theorem memoryConsistent_foldl_abortByte {s : State} (fresh : Nat) {as : List Nat} (has : ∀ a ∈ as, a < s.bufBytes)
    {m : Memory} (hm : MemoryConsistent { s with mem := m }) :
    MemoryConsistent { s with mem := as.foldl (abortByte fresh) m } := by
  induction as generalizing m with
  | nil => exact hm
  | cons a as ih =>
    obtain ⟨ha, has⟩ := List.forall_mem_cons.1 has
    refine ih has ?_
    rw [abortByte]
    cases Config.abortedByte fresh a with
    | none => exact hm
    | some v => exact memoryConsistent_writeByte ha hm

theorem CoreEffect.memory {s t : State} (h : CoreEffect s t) (hs : MemoryConsistent s) : MemoryConsistent t := by
  cases h with
  | waited | halted => exact hs
  | completed _ _ hinside =>
    obtain ⟨hwf, hcells⟩ := hs
    refine ⟨putBytes_wf _ _ _ hwf, fun cell hcell => ?_⟩
    rcases mem_putBytes hcell with ⟨hlow, hhigh⟩ | hcell
    · rcases hinside with hout | hinside
      · rw [hout] at hhigh
        exact absurd hhigh (Nat.not_lt.2 hlow)
      · exact hhigh.trans_le hinside
    · exact hcells cell hcell

theorem HostEffect.memory {s t : State} {e : Input} (h : HostEffect s e t) (hs : MemoryConsistent s) :
    MemoryConsistent t := by
  cases h with
  | observed | enabled | acknowledged | accepted | dropped | configured => exact hs
  | stored ha => exact memoryConsistent_writeByte ha hs
  | softReset =>
    cases hp : s.phase with
    | idle =>
      rw [softReset_of_idle hp]
      exact hs
    | busy =>
      rw [softReset_of_busy hp]
      exact memoryConsistent_foldl_abortByte _ (fun a ha => (mem_abortedRange ha).1) hs
  | resetInput => exact ⟨rfl, nofun⟩

/-- Settles O56: the core's output and the host's bytes go to existing addresses, and every write keeps the canonical form. -/
theorem everyStepKeepsMemoryConsistent : Obligations.EveryStepKeepsMemoryConsistent := by
  unfold Obligations.EveryStepKeepsMemoryConsistent
  intro s t hs hstep
  exact step_preserves (fun _ _ h => h) (fun _ _ hs h => h.memory hs) (fun _ _ _ hs h => h.memory hs) hs hstep

/-- Settles O57: at power-on no flag is set and no byte is listed, so the invariants hold, and BUF_BYTES is the size given. -/
theorem invariantsHoldAtReset : Obligations.InvariantsHoldAtReset := by
  unfold Obligations.InvariantsHoldAtReset
  have hmemory : ∀ n, MemoryConsistent (State.powerOn n) := fun n => ⟨rfl, nofun⟩
  have hstuck : ∀ n, StuckConsistent (State.powerOn n) := fun n => nofun
  refine ⟨?powerOn, statusConsistent_powerOn _, hmemory _, hstuck _⟩
  case powerOn =>
    rintro n hpos hmax s rfl
    exact ⟨statusConsistent_powerOn n, hmemory n, hstuck n, hpos, hmax⟩

/-! ### The fault record (R37) -/

/-- The fault record holds every name of an earlier one, and BUF_BYTES is as it was. -/
def FaultsKept (s t : State) : Prop :=
  (∀ f, s.faults.has f = true → t.faults.has f = true) ∧ t.bufBytes = s.bufBytes

theorem CoreEffect.faultsKept {s t : State} (h : CoreEffect s t) : FaultsKept s t := by
  cases h with
  | waited | completed => exact ⟨fun _ => id, rfl⟩
  | halted => exact ⟨fun f => s.faults.has_add .uninitRead f, rfl⟩

theorem HostEffect.faultsKept {s t : State} {e : Input} (h : HostEffect s e t) : FaultsKept s t := by
  cases h with
  | observed grows => exact ⟨grows, rfl⟩
  | softReset =>
    rw [softReset_registers]
    exact ⟨fun _ => id, rfl⟩
  | _ => exact ⟨fun _ => id, rfl⟩

/-- Settles O58: the core only adds UNINIT_READ, host accesses only add names, and the resets keep the record. -/
theorem faultRecordOnlyGrows : Obligations.FaultRecordOnlyGrows := by
  unfold Obligations.FaultRecordOnlyGrows
  intro s t hstep
  rcases step_cases hstep with ⟨rest, -, h⟩ | ⟨e, rest, -, h⟩
  · exact h.faultsKept
  · exact h.faultsKept

/-! ### A stuck core (R97, I8) -/

/-- While the core is BUSY and stuck, a host event that is no reset changes no register of an operation. -/
theorem HostEffect.of_stuck {s t : State} {e : Input} (h : HostEffect s e t) (hb : s.phase = .busy) (he : ¬ IsReset e) :
    t = { s with
      irqEn := t.irqEn, done := t.done, werr := t.werr, mem := t.mem, faults := t.faults, readData := t.readData } := by
  cases h with
  | observed | stored | enabled | acknowledged | dropped => rfl
  | softReset hv => exact absurd ⟨rfl, rfl, hv⟩ he
  | resetInput => exact absurd trivial he
  | accepted hp | configured hp => rw [hb] at hp; cases hp

/-- Settles O59: the core waits, and of the host's events only a reset frees it (`HostEffect.of_stuck`). -/
theorem stuckCoreStaysUntilReset : Obligations.StuckCoreStaysUntilReset := by
  unfold Obligations.StuckCoreStaysUntilReset
  intro s hb hs
  refine ⟨fun hi => ?nothingPending, fun e rest hi he => ?event⟩
  case nothingPending =>
    rw [step_nil hi, lastTurn, busy, hb, hs]
    rfl
  case event =>
    rw [step_cons hi]
    by_cases hturn : e = .coreTurn
    · subst hturn
      exact ⟨_, coreTurn_disabled (.inr hs), rfl⟩
    · exact ⟨_, takeInput_host hturn, (hostEffect_hostEvent { s with inputs := rest } e).of_stuck hb he⟩

/-! ### What writes the status flags and RES (R34, R40, R90) -/

/-- The phase, the status flags and RES are as they were. -/
structure SameStatus (s t : State) : Prop where
  phase : t.phase = s.phase
  done : t.done = s.done
  valid : t.valid = s.valid
  rc : t.rc = s.rc
  werr : t.werr = s.werr
  res0 : t.res0 = s.res0
  res1 : t.res1 = s.res1
  res2 : t.res2 = s.res2
  res3 : t.res3 = s.res3

/-- The events that R40 and R90 name for a step from s to t: `turn` says that the core had the turn, and `pending e` that e
was the event taken. -/
structure ChangesAsNamed (turn : Prop) (pending : Input → Prop) (s t : State) : Prop where
  busySet : s.phase = .idle → t.phase = .busy → ∃ w, pending (.regWrite 0x0C 4 w)
  busyCleared : s.phase = .busy → t.phase = .idle → turn ∧ t.done = true
  doneSet : s.done = false → t.done = true → turn ∧ s.phase = .busy ∧ t.phase = .idle
  doneCleared : s.done = true → t.done = false →
    ∃ w, pending (.regWrite 0x08 4 w) ∨ (pending (.regWrite 0x0C 4 w) ∧ t.phase = .busy)
  resultWritten : t.valid ≠ s.valid ∨ t.rc ≠ s.rc →
    (turn ∧ t.done = true) ∨ ∃ w, pending (.regWrite 0x0C 4 w) ∧ t.phase = .busy
  werrSet : s.werr = false → t.werr = true → s.phase = .busy ∧ ∃ offset w, pending (.regWrite offset 4 w)
  werrCleared : s.werr = true → t.werr = false → ∃ w, pending (.regWrite 0x08 4 w)
  resWritten : t.res0 ≠ s.res0 ∨ t.res1 ≠ s.res1 ∨ t.res2 ≠ s.res2 ∨ t.res3 ≠ s.res3 →
    turn ∧ s.phase = .busy ∧ t.phase = .idle ∧ t.done = true

section ChangesAsNamed
variable {turn : Prop} {pending : Input → Prop} {s t : State}

/-- The pending events are no part of the status. -/
theorem ChangesAsNamed.of_inputs {rest : List Input} (h : ChangesAsNamed turn pending { s with inputs := rest } t) :
    ChangesAsNamed turn pending s t :=
  ⟨h.busySet, h.busyCleared, h.doneSet, h.doneCleared, h.resultWritten, h.werrSet, h.werrCleared, h.resWritten⟩

/-- A step that leaves the status as it was. -/
theorem SameStatus.changesAsNamed (h : SameStatus s t) : ChangesAsNamed turn pending s t where
  busySet hp hb := by rw [h.phase, hp] at hb; cases hb
  busyCleared hb hp := by rw [h.phase, hb] at hp; cases hp
  doneSet h0 h1 := by rw [h.done, h0] at h1; cases h1
  doneCleared h1 h0 := by rw [h.done, h1] at h0; cases h0
  resultWritten hne := (hne.elim (· h.valid) (· h.rc)).elim
  werrSet h0 h1 := by rw [h.werr, h0] at h1; cases h1
  werrCleared h1 h0 := by rw [h.werr, h1] at h0; cases h0
  resWritten hne := by simp [h.res0, h.res1, h.res2, h.res3] at hne

/-- The core's turn: a completion, or nothing of the status. -/
theorem CoreEffect.changesAsNamed (h : CoreEffect s t) (hturn : turn) : ChangesAsNamed turn pending s t := by
  cases h with
  | waited => exact SameStatus.changesAsNamed ⟨rfl, rfl, rfl, rfl, rfl, rfl, rfl, rfl, rfl⟩
  | halted => exact SameStatus.changesAsNamed ⟨rfl, rfl, rfl, rfl, rfl, rfl, rfl, rfl, rfl⟩
  | completed hb =>
    exact {
      busySet := fun _ => nofun
      busyCleared := fun _ _ => ⟨hturn, rfl⟩
      doneSet := fun _ _ => ⟨hturn, hb, rfl⟩
      doneCleared := fun _ => nofun
      resultWritten := fun _ => .inl ⟨hturn, rfl⟩
      werrSet := fun h0 h1 => absurd (h0.symm.trans h1) Bool.false_ne_true
      werrCleared := fun h1 h0 => absurd (h0.symm.trans h1) Bool.false_ne_true
      resWritten := fun _ => ⟨hturn, hb, rfl, rfl⟩ }

/-- A host event that is no reset: a STATUS write, an accepted command, a dropped write, or nothing of the status. -/
theorem HostEffect.changesAsNamed {e : Input} (h : HostEffect s e t) (he : ¬ IsReset e) (hpending : pending e) :
    ChangesAsNamed turn pending s t := by
  cases h with
  | observed | stored | enabled | configured =>
    exact SameStatus.changesAsNamed ⟨rfl, rfl, rfl, rfl, rfl, rfl, rfl, rfl, rfl⟩
  | softReset hv => exact absurd ⟨rfl, rfl, hv⟩ he
  | resetInput => exact absurd trivial he
  | acknowledged =>
    exact {
      busySet := fun hp hb => absurd (hp.symm.trans hb) nofun
      busyCleared := fun hb hp => absurd (hp.symm.trans hb) nofun
      doneSet := fun h0 h1 => absurd (h0.symm.trans (w1c_eq_true h1)) Bool.false_ne_true
      doneCleared := fun _ _ => ⟨_, .inl hpending⟩
      resultWritten := fun hne => (hne.elim (· rfl) (· rfl)).elim
      werrSet := fun h0 h1 => absurd (h0.symm.trans (w1c_eq_true h1)) Bool.false_ne_true
      werrCleared := fun _ _ => ⟨_, hpending⟩
      resWritten := fun hne => by simp at hne }
  | accepted hp =>
    exact {
      busySet := fun _ _ => ⟨_, hpending⟩
      busyCleared := fun _ => nofun
      doneSet := fun _ => nofun
      doneCleared := fun _ _ => ⟨_, .inr ⟨hpending, rfl⟩⟩
      resultWritten := fun _ => .inr ⟨_, hpending, rfl⟩
      werrSet := fun h0 h1 => absurd (h0.symm.trans h1) Bool.false_ne_true
      werrCleared := fun h1 h0 => absurd (h0.symm.trans h1) Bool.false_ne_true
      resWritten := fun hne => by simp at hne }
  | dropped hb =>
    exact {
      busySet := fun hp => absurd (hp.symm.trans hb) nofun
      busyCleared := fun hb hp => absurd (hp.symm.trans hb) nofun
      doneSet := fun h0 h1 => absurd (h0.symm.trans h1) Bool.false_ne_true
      doneCleared := fun h1 h0 => absurd (h0.symm.trans h1) Bool.false_ne_true
      resultWritten := fun hne => (hne.elim (· rfl) (· rfl)).elim
      werrSet := fun _ _ => ⟨hb, _, _, hpending⟩
      werrCleared := fun _ => nofun
      resWritten := fun hne => by simp at hne }

end ChangesAsNamed

/-- Settles O60: each agent's move changes the status as R40 and R90 name it. -/
theorem statusAndResultsChangeOnlyAsNamed : Obligations.StatusAndResultsChangeOnlyAsNamed := by
  unfold Obligations.StatusAndResultsChangeOnlyAsNamed
  intro s t hstep hreset
  have hnamed : ChangesAsNamed (CoreHasTheTurn s) (fun e => ∃ rest, s.inputs = e :: rest) s t := by
    rcases step_cases hstep with ⟨rest, hturn, h⟩ | ⟨e, rest, hi, h⟩
    · exact (h.changesAsNamed hturn).of_inputs
    · exact (h.changesAsNamed (hreset e rest hi) ⟨rest, hi⟩).of_inputs
  refine ⟨hnamed.busySet, hnamed.busyCleared, hnamed.doneSet, fun h1 h0 => ?doneCleared, fun hne => ?resultWritten,
    hnamed.werrSet, hnamed.werrCleared, hnamed.resWritten⟩
  case doneCleared =>
    obtain ⟨w, ⟨rest, hi⟩ | ⟨⟨rest, hi⟩, hb⟩⟩ := hnamed.doneCleared h1 h0
    · exact ⟨w, rest, .inl hi⟩
    · exact ⟨w, rest, .inr ⟨hi, hb⟩⟩
  case resultWritten =>
    refine (hnamed.resultWritten hne).imp_right ?_
    rintro ⟨w, ⟨rest, hi⟩, hb⟩
    exact ⟨w, rest, hi, hb⟩

end Sys2Proof.Machine


/-! The data formats, read back: big-endian numbers in buffer RAM (R62, R63), parity frames (R113, R153), the CRC of a string
and its own CRC (R170), the LZ77 search (R215, R216) and the bound on COMPRESS_DATA's output (R225). -/

namespace Sys2Proof.Machine

/-! ### Big-endian numbers (R62, R63) -/

/-- A byte string as the sum of its bytes, each at its place. -/
theorem beVal_eq_sum (d : List Byte) :
    beVal d = ((List.range d.length).map fun i => (d.getD i 0).toNat * 2 ^ (8 * (d.length - 1 - i))).sum := by
  induction d with
  | nil => rfl
  | cons b d ih =>
    rw [beVal_cons, ih, List.length_cons, List.range_succ_eq_map, List.map_cons, List.sum_cons, List.map_map,
      Nat.add_sub_cancel, Nat.sub_zero, List.getD_cons_zero, Nat.pow_mul]
    refine congrArg (_ + ·) (congrArg List.sum (List.map_congr_left fun i _ => ?_))
    have hplace : d.length - (i + 1) = d.length - 1 - i := by omega
    rw [Function.comp_apply, Nat.succ_eq_add_one, List.getD_cons_succ, hplace]

/-- Byte i of the big-endian encoding (R63). -/
theorem beBytes_getElem? (n v : Nat) {i : Nat} (hi : i < n) :
    (beBytes n v)[i]? = some (BitVec.ofNat 8 (v / 256 ^ (n - 1 - i))) := by
  induction n generalizing i with
  | zero => exact absurd hi (Nat.not_lt_zero i)
  | succ n ih =>
    cases i with
    | zero => rfl
    | succ i =>
      have hplace : n + 1 - 1 - (i + 1) = n - 1 - i := by omega
      rw [beBytes, List.getElem?_cons_succ, ih (Nat.lt_of_succ_lt_succ hi), hplace]

/-- What MemWrite wrote, MemRead reads back (R62, R63). -/
theorem memRead_memWrite (m : Memory) (addr n v : Nat) : memRead (memWrite m addr n v) addr n = some (v % 256 ^ n) := by
  have hbytes := memBytes_putBytes_same m addr (beBytes n v)
  rw [beBytes_length] at hbytes
  rw [memRead, memWrite, hbytes, Option.map_some, beVal_beBytes]

/-- Settles O41: MemRead is `beVal` of the bytes, and MemWrite stores `beBytes`, whose bytes are `beBytes_getElem?`. -/
theorem memReadAndMemWriteAreBigEndian : Obligations.MemReadAndMemWriteAreBigEndian := by
  unfold Obligations.MemReadAndMemWriteAreBigEndian
  refine ⟨fun m addr n d hlen hread => ?sum, fun m addr n h => ?uninit, fun m addr n v a hv => ⟨?readBack, ?inside, ?outside⟩⟩
  case sum =>
    rw [memRead, (memBytes_eq_some_iff m addr n d).2 ⟨hlen, hread⟩, Option.map_some, beVal_eq_sum, hlen]
  case uninit => rw [memRead, (memBytes_eq_none_iff m addr n).2 h, Option.map_none]
  case readBack =>
    rw [Nat.pow_mul] at hv
    rw [memRead_memWrite, Nat.mod_eq_of_lt hv]
  case inside =>
    intro hlow hhigh
    rw [memWrite, readByte_putBytes, beBytes_length, if_pos ⟨hlow, hhigh⟩, beBytes_getElem? n v (by omega), Nat.pow_mul]
    exact congrArg some (BitVec.eq_of_toNat_eq (by simp))
  case outside =>
    intro hout
    rw [memWrite, readByte_putBytes, beBytes_length, if_neg (by omega)]

/-! ### Parity frames (R113, R152, R153) -/

@[simp] theorem byteFrame_length (x : Byte) : (byteFrame x).length = 9 := by
  rw [byteFrame, List.length_append, byteBits_length, List.length_singleton]

/-- The parity bit makes the count of 1 bits even (R113). -/
theorem parityOf_byteFrame (x : Byte) : parityOf (byteFrame x) = 0 := by
  have hcount : popcount (byteFrame x) = popcount (byteBits x) + (parityOf (byteBits x) == 1).toNat := by
    rw [popcount, byteFrame, List.count_append, popcount]
    cases parityOf (byteBits x) == 1 <;> rfl
  rw [parityOf, hcount, parityOf]
  rcases Nat.mod_two_eq_zero_or_one (popcount (byteBits x)) with h | h
  · rw [h, Nat.add_mod, h]
    rfl
  · rw [h, Nat.add_mod, h]
    rfl

theorem frameBad_byteFrame (x : Byte) : frameBad (byteFrame x) = false := by
  rw [frameBad, parityOf_byteFrame]
  rfl

theorem frameData_byteFrame (x : Byte) : frameData (byteFrame x) = x := by
  have hbits : (byteFrame x).take 8 = byteBits x := by
    rw [byteFrame, ← byteBits_length x, List.take_left]
  rw [frameData, hbits, valMSB_byteBits, BitVec.ofNat_toNat, BitVec.setWidth_eq]

@[simp] theorem byteFrames_length (d : List Byte) : (byteFrames d).length = 9 * d.length := by
  induction d with
  | nil => rfl
  | cons x d ih =>
    rw [byteFrames, List.flatMap_cons, List.length_append, byteFrame_length, ← byteFrames, ih, List.length_cons]
    omega

/-- The i-th nine bits of the frames are the i-th byte's frame. -/
theorem slice_byteFrames (d : List Byte) {i : Nat} (hi : i < d.length) :
    slice (byteFrames d) (9 * i) 9 = byteFrame d[i] := by
  induction d generalizing i with
  | nil => exact absurd hi (Nat.not_lt_zero i)
  | cons x d ih =>
    have hfirst : byteFrames (x :: d) = byteFrame x ++ byteFrames d := rfl
    cases i with
    | zero => rw [hfirst, Nat.mul_zero, slice, List.drop_zero, ← byteFrame_length x, List.take_left]; rfl
    | succ i =>
      have hoff : 9 * (i + 1) = (byteFrame x).length + 9 * i := by rw [byteFrame_length]; omega
      rw [hfirst, slice, hoff, List.drop_length_add_append]
      exact ih (Nat.lt_of_succ_lt_succ hi)

/-- The frames of a byte string split into its bytes' frames, with none left over. -/
theorem splitFrames_byteFrames (d : List Byte) : splitFrames (byteFrames d) = d.map byteFrame := by
  have hcount : (byteFrames d).length / 9 = d.length := by rw [byteFrames_length]; omega
  rw [splitFrames_eq_map, hcount]
  refine List.ext_getElem (by simp) fun i h₁ h₂ => ?_
  have hi : i < d.length := by simpa using h₂
  rw [List.getElem_map, List.getElem_map, List.getElem_range, slice_byteFrames d hi]

/-- Settles O12: the frames split as they were made (`splitFrames_byteFrames`), and each is even and holds its byte. -/
theorem parityFramesRoundTrip : Obligations.ParityFramesRoundTrip := by
  unfold Obligations.ParityFramesRoundTrip
  intro d
  refine ⟨fun x _ => ⟨byteFrame_length x, parityOf_byteFrame x⟩, ?failures, ?data⟩
  case failures =>
    have hwhole : ¬ 0 < (byteFrames d).length % 9 := by rw [byteFrames_length]; omega
    have hgood : (d.map byteFrame).countP frameBad = 0 := by
      rw [List.countP_map, List.countP_eq_zero]
      intro x _
      rw [Function.comp_apply, frameBad_byteFrame]
      exact Bool.false_ne_true
    rw [parityFailures, splitFrames_byteFrames, hgood, if_neg hwhole]
  case data =>
    rw [splitFrames_byteFrames, List.map_map]
    exact (List.map_congr_left fun x _ => frameData_byteFrame x).trans (List.map_id d)

/-! ### The CRC of a string and its own CRC (R170) -/

/-- Shifts that vacate no 1 bit XOR nothing in. -/
theorem crcShifts_eq_shiftLeft {n : Nat} {c : BitVec 16} (hc : c.toNat * 2 ^ n < 2 ^ 16) : crcShifts n c = c <<< n := by
  induction n generalizing c with
  | zero => rw [crcShifts, BitVec.shiftLeft_zero]
  | succ n ih =>
    have hdouble : c.toNat * 2 < 2 ^ 16 := by
      have hle : c.toNat * 2 ≤ c.toNat * 2 ^ (n + 1) :=
        Nat.mul_le_mul_left _ (Nat.pow_succ 2 n ▸ Nat.le_mul_of_pos_left 2 (Nat.two_pow_pos n))
      exact hle.trans_lt hc
    have htoNat : (c <<< 1).toNat = c.toNat * 2 := by
      rw [BitVec.toNat_shiftLeft, Nat.shiftLeft_eq, Nat.pow_one, Nat.mod_eq_of_lt hdouble]
    have hlow : c.getLsbD 15 = false := by
      have hmsb : c.getLsbD 15 = decide (2 ^ 15 ≤ c.toNat) := BitVec.msb_eq_decide c
      rw [hmsb, decide_eq_false_iff_not]
      omega
    have hshift : crcShift c = c <<< 1 := by rw [crcShift, hlow, if_neg Bool.false_ne_true]
    rw [crcShifts, hshift, ih (by rw [htoNat, Nat.mul_assoc, ← Nat.pow_succ']; exact hc), ← BitVec.shiftLeft_add,
      Nat.add_comm]

/-- Taking its own high byte moves the register's low byte to the high place. -/
theorem crcByte_high (c : BitVec 16) : crcByte c (c.extractLsb' 8 8) = (c.extractLsb' 0 8).setWidth 16 <<< 8 := by
  have hlow : c ^^^ ((c.extractLsb' 8 8).setWidth 16 <<< 8) = (c.extractLsb' 0 8).setWidth 16 := by
    refine BitVec.eq_of_getLsbD_eq fun i hi => ?_
    rcases Nat.lt_or_ge i 8 with h | h
    · simp [h, hi]
    · obtain ⟨j, rfl⟩ := Nat.exists_eq_add_of_le h
      have hj : j < 8 := by omega
      simp [hi, hj]
  rw [crcByte, hlow, crcShifts_eq_shiftLeft]
  have hlt := (c.extractLsb' 0 8).isLt
  rw [BitVec.toNat_setWidth, Nat.mod_eq_of_lt (by omega)]
  omega

/-- A register that holds one byte, in the high place, is 0 after taking that byte. -/
theorem crcByte_low (d : Byte) : crcByte (d.setWidth 16 <<< 8) d = 0 := by
  rw [crcByte, BitVec.xor_self, crcShifts_eq_shiftLeft (by decide)]
  rfl

/-- Settles O15: the register takes its high byte and then its low byte, and nothing is left. -/
theorem crcOfStringAndItsCrcIsZero : Obligations.CrcOfStringAndItsCrcIsZero := by
  unfold Obligations.CrcOfStringAndItsCrcIsZero
  intro p
  have hsplit : p ++ [(crc16 p).extractLsb' 8 8, (crc16 p).extractLsb' 0 8]
      = p ++ [(crc16 p).extractLsb' 8 8] ++ [(crc16 p).extractLsb' 0 8] := by
    rw [List.append_assoc, List.singleton_append]
  rw [hsplit, crc16_concat, crc16_concat, crcByte_high, crcByte_low]

/-! ### LZ77 (R215, R216, R225) -/

/-- Settles O22: the search's invariant after the last candidate (`isBestMatch_bestMatch`). -/
theorem lzSearchFindsTheFarthestLongestMatch : Obligations.LzSearchFindsTheFarthestLongestMatch := by
  unfold Obligations.LzSearchFindsTheFarthestLongestMatch
  intro d i len dist hi hbest
  have h := isBestMatch_bestMatch (d := d) hi.le
  rwa [hbest] at h

/-- A completion with VALID = 1 did not overflow its DST range (R99, R266). -/
theorem eq_of_emit_valid {s : State} {sofar full c : Completion} (h : emit s sofar full = .ok c)
    (hvalid : c.rc.valid = true) : c = full := by
  rcases emit_cases s sofar full with ⟨-, he⟩ | ⟨-, he⟩
  · obtain rfl := Except.ok.inj (he.symm.trans h)
    cases hvalid
  · exact (Except.ok.inj (he.symm.trans h)).symm

/-- COMPRESS_DATA that delivers: uncompressed with RES1 = 8n, or compressed with RES0 = 1 and fewer bits (R224). -/
theorem performCompressData_delivers {s : State} {c : Completion} (h : performCompressData s = .ok c)
    (hvalid : c.rc.valid = true) :
    c.res1 = resWord (8 * s.srcLen.toNat)
      ∨ (c.res0 = 1 ∧ ∃ bits, bits < 8 * s.srcLen.toNat ∧ c.res1 = resWord bits) := by
  cases hread : memBytes s.mem s.srcAddr.toNat (srcCount s) with
  | none =>
    rw [performCompressData, withSrcBytes_none _ hread] at h
    cases h
  | some d =>
    rw [performCompressData, withSrcBytes_some _ hread] at h
    have hlen : s.srcLen.toNat = d.length := (memBytes_length hread).symm
    rw [hlen]
    have hplain : ∀ {reason streamBits}, emitPlain s d reason streamBits = .ok c → c.res1 = resWord (8 * d.length) := by
      intro reason streamBits h
      rw [eq_of_emit_valid h hvalid]
    dsimp only at h
    split at h
    · exact .inl (hplain h)
    · split at h
      · exact .inl (hplain h)
      · split at h
        · next hsmaller =>
          rw [eq_of_emit_valid h hvalid]
          exact .inr ⟨rfl, _, hsmaller, rfl⟩
        · exact .inl (hplain h)

/-- Settles O27: behind the common checks the SRC range fits BUF_BYTES, so 8n fits RES1, and the two ways to deliver are
those of `performCompressData_delivers`. -/
theorem compressDataNeverExpands : Obligations.CompressDataNeverExpands := by
  unfold Obligations.CompressDataNeverExpands
  intro s t hsize hx hrun hvalid
  rcases exec_cases hx with hhalt | ⟨c, hc, rfl⟩
  · exact absurd hhalt hrun
  rcases prechecked_cases .compressData s fun _ => performOf .compressData s with ⟨rc, -, hrc, hraise⟩ | ⟨hcheck, hown⟩
  · obtain rfl := Except.ok.inj (hraise.symm.trans hc)
    rcases hrc with rfl | rfl
    · cases hvalid
    · cases hvalid
  have hfits : s.srcAddr.toNat + s.srcLen.toNat ≤ s.bufBytes := ((commonCheck_eq_none_iff _ s).1 hcheck).1 rfl
  have hbytes : 8 * s.srcLen.toNat < 2 ^ 32 := by
    have hmax := hsize.2
    omega
  have htoNat : ∀ n, n ≤ 8 * s.srcLen.toNat → (resWord n).toNat = n := fun n hn => by
    rw [resWord, BitVec.toNat_ofNat, Nat.mod_eq_of_lt (hn.trans_lt hbytes)]
  rw [complete_res0, complete_res1]
  rcases performCompressData_delivers (hown.symm.trans hc) hvalid with hplain | ⟨hres0, bits, hbits, hres1⟩
  · rw [hplain, htoNat _ le_rfl]
    exact ⟨le_rfl, fun _ => rfl⟩
  · rw [hres0, hres1, htoNat _ hbits.le]
    exact ⟨hbits.le, nofun⟩

end Sys2Proof.Machine


/-! ENV_UNWRAP (46_envelope.md): the mode tag read back (R117), what the operation does in each case of R257, and the round
trip of R258. -/

namespace Sys2Proof.Machine

/-! ### Reading a mode tag (R117, R257) -/

/-- A tag character is '0' or '1' (R117). -/
def IsTagChar (b : Byte) : Prop := b = 0x30 ∨ b = 0x31

theorem tagBit_of_isTagChar {b : Byte} (h : IsTagChar b) : tagBit b = some (b.toNat - 0x30) := by
  rcases h with rfl | rfl
  · rfl
  · rfl

theorem tagBit_of_not_isTagChar {b : Byte} (h : ¬ IsTagChar b) : tagBit b = none := by
  obtain ⟨h0, h1⟩ := not_or.1 h
  rw [tagBit, if_neg h0, if_neg h1]

section Split
variable {b0 b1 : Byte} (q : List Byte)

theorem splitEnvelope_of_tag (h0 : IsTagChar b0) (h1 : IsTagChar b1) :
    splitEnvelope (b0 :: b1 :: q) = some (2 * (b0.toNat - 0x30) + (b1.toNat - 0x30), q) := by
  rw [splitEnvelope, tagBit_of_isTagChar h0, tagBit_of_isTagChar h1]

theorem splitEnvelope_of_no_tag (h : ¬ (IsTagChar b0 ∧ IsTagChar b1)) : splitEnvelope (b0 :: b1 :: q) = none := by
  rw [splitEnvelope]
  by_cases h0 : IsTagChar b0
  · rw [tagBit_of_not_isTagChar fun h1 => h ⟨h0, h1⟩]
    split
    · next heq => cases heq
    · rfl
  · rw [tagBit_of_not_isTagChar h0]

end Split

/-! ### ENV_UNWRAP (R257) -/

theorem performEnvUnwrap_of_short {s : State} (h : s.srcLen.toNat < 2) : performEnvUnwrap s = raiseRc .badEnvelope :=
  if_pos h

/-- Settles O32: behind the common checks a short string is refused without a read, and the first two bytes decide between
BAD_ENVELOPE and the payload (`splitEnvelope_of_tag`). -/
theorem envUnwrapResult : Obligations.EnvUnwrapResult := by
  unfold Obligations.EnvUnwrapResult
  refine ⟨decode_encode .envUnwrap, fun s => writerChecks_of rfl rfl rfl fun hx => ⟨fun h => ?short, fun h =>
    onSrcBytes_of (hx.trans (congrArg _ (if_neg (Nat.not_lt.2 h)))) fun b _ hx b0 b1 q hb => ⟨fun hno => ?noTag,
      fun h0 h1 mode hmode => ?tag⟩⟩⟩
  case short => exact ends_of_raise (hx.trans (congrArg _ (performEnvUnwrap_of_short h)))
  case noTag =>
    rw [hb, splitEnvelope_of_no_tag q hno] at hx
    exact ends_of_raise hx
  case tag =>
    rw [hb, splitEnvelope_of_tag q h0 h1] at hx
    rw [hmode]
    exact emits_of_finish hx

/-! ### The round trip (R258) -/

/-- The tag characters of a register's two low bits. -/
def tagOf (w : Word) : List Byte := [if w.getLsbD 1 then 0x31 else 0x30, if w.getLsbD 0 then 0x31 else 0x30]

theorem isTagChar_ite (b : Bool) : IsTagChar (if b then 0x31 else 0x30) := by
  cases b
  · exact .inl rfl
  · exact .inr rfl

theorem toNat_tag_ite (b : Bool) : (if b then 0x31 else 0x30 : Byte).toNat - 0x30 = b.toNat := by cases b <;> rfl

/-- A register whose bits 31:2 are 0 is the mode that its tag says. -/
theorem resWord_mode {w : Word} (h : w.extractLsb' 2 30 = 0) :
    resWord (2 * (w.getLsbD 1).toNat + (w.getLsbD 0).toNat) = w := by
  have hhigh : w.toNat / 2 ^ 2 % 2 ^ 30 = 0 := by
    simpa [BitVec.extractLsb'_toNat, Nat.shiftRight_eq_div_pow] using congrArg BitVec.toNat h
  have hlt := w.isLt
  have hvalue : 2 * (w.getLsbD 1).toNat + (w.getLsbD 0).toNat = w.toNat := by
    rw [BitVec.getLsbD, BitVec.getLsbD, Nat.toNat_testBit, Nat.toNat_testBit]
    omega
  rw [hvalue, resWord_toNat]

/-- An ENV_WRAP that ended with SUCCESS had a mode in ARG0 and wrote the tag and the payload, whose length RES0 holds: the
string fits DST_CAP, so its length fits a register. -/
theorem envWrap_of_success {s t : State} {q : List Byte} (hq : SrcBytesAre s s.srcLen.toNat q)
    (hx : exec .envWrap s = .next t) (hrc : t.rc = .success) :
    s.arg0.extractLsb' 2 30 = 0 ∧ t.res0.toNat = q.length + 2
      ∧ memBytes t.mem s.dstAddr.toNat (q.length + 2) = some (tagOf s.arg0 ++ q) := by
  obtain ⟨hreserved, hwrap⟩ := own_of_writerChecks hx hrc (envWrapResult.2 s)
  have harg : s.arg0.extractLsb' 2 30 = 0 :=
    by_contra fun hn => not_ends_of_success hx hrc (by decide) (hreserved hn)
  have hemits := (hwrap harg).2 q hq
  have hlen : (tagOf s.arg0 ++ q).length = q.length + 2 := by
    rw [List.length_append, Nat.add_comm]
    rfl
  have hcap : (tagOf s.arg0 ++ q).length ≤ s.dstCap.toNat :=
    Nat.le_of_not_lt fun hlt => not_ends_of_success hx hrc (by decide) (hemits.1 hlt)
  obtain ⟨-, -, -, -, hres0, -, -, -, hout, -⟩ := completedAs_of_emits hx hrc hemits
  have hfits := hcap.trans_lt s.dstCap.isLt
  rw [hlen] at hfits
  refine ⟨harg, ?_, ?_⟩
  · rw [hres0, ← hq.1, BitVec.toNat_ofNat, Nat.mod_eq_of_lt hfits]
  · have hread := memBytes_of_storesOutput hout
    rwa [← tagOf, hlen] at hread

/-- Settles O33: ENV_WRAP's success leaves the tag and the payload in buffer RAM (`envWrap_of_success`), and ENV_UNWRAP of a
tagged string answers the mode that the tag says, which is ARG0 (`resWord_mode`). -/
theorem envelopeRoundTrip : Obligations.EnvelopeRoundTrip := by
  unfold Obligations.EnvelopeRoundTrip
  intro s t u q hq hx hrc hmem haddr hlen hcap hsrc hdst hapart
  obtain ⟨harg, hres0, hread⟩ := envWrap_of_success hq hx hrc
  have hcount : u.srcLen.toNat = q.length + 2 := by rw [hlen, hres0]
  have hbytes : SrcBytesAre u u.srcLen.toNat (tagOf s.arg0 ++ q) := by
    rw [SrcBytesAre, ← memBytes_eq_some_iff, hmem, haddr, hcount]
    exact hread
  rw [← hcount] at hsrc hapart
  obtain ⟨-, -, -, hown⟩ := envUnwrapResult.2 u
  obtain ⟨-, hunwrap⟩ := hown hsrc hdst hapart
  obtain ⟨-, hemits⟩ := (hunwrap (by omega)).2 _ hbytes _ _ q rfl
  have hends := (hemits (isTagChar_ite _) (isTagChar_ite _) _ rfl).2 hcap
  rw [toNat_tag_ite, toNat_tag_ite, ← resWord, resWord_mode harg, hcount, Nat.add_sub_cancel] at hends
  exact hends

end Sys2Proof.Machine


/-! REASSEMBLE (43_chunker.md): a chunk list split into its records and back (R118), the records in SEQ order, what the
operation does in each case of R202, and the reassembly of what CHUNK wrote, whole or with a record missing (R203). -/

namespace Sys2Proof.Machine

/-! ### Chunk records and their bytes (R118) -/

/-- `beBytes`, unfolded at its least significant byte. -/
theorem beBytes_succ_eq_concat (n v : Nat) : beBytes (n + 1) v = beBytes n (v / 256) ++ [BitVec.ofNat 8 v] := by
  induction n with
  | zero => simp [beBytes]
  | succ n ih =>
    have hplace : v / 256 ^ (n + 1) = v / 256 / 256 ^ n := by rw [Nat.div_div_eq_div_mul, Nat.pow_succ']
    rw [beBytes, ih, beBytes, List.cons_append, hplace]

/-- `beBytes` writes back the bytes whose number `beVal` takes (R62, R63). -/
theorem beBytes_beVal (x : List Byte) : beBytes x.length (beVal x) = x := by
  induction x using List.reverseRecOn with
  | nil => rfl
  | append_singleton x b ih =>
    have hlt : b.toNat < 256 := b.isLt
    have hhigh : (beVal x * 256 + b.toNat) / 256 = beVal x := by omega
    have hlow : BitVec.ofNat 8 (beVal x * 256 + b.toNat) = b := BitVec.eq_of_toNat_eq (by simp [hlt])
    rw [List.length_append, List.length_singleton, beVal_concat, beBytes_succ_eq_concat, hhigh, hlow, ih]

theorem beBytes_four_beVal {x : List Byte} (h : x.length = 4) : beBytes 4 (beVal x) = x := by
  have hx := beBytes_beVal x
  rwa [h] at hx

theorem beVal_beBytes_four {v : Nat} (h : v < 2 ^ 32) : beVal (beBytes 4 v) = v := by
  rw [beVal_beBytes]
  exact Nat.mod_eq_of_lt h

/-- The LENGTH field of the record that a byte string begins with. -/
def dataLength (b : List Byte) : Nat := beVal ((b.drop 8).take 4)

/-- The record that a byte string begins with. -/
def firstRecord (b : List Byte) : ChunkRecord where
  seq := beVal (b.take 4)
  total := beVal ((b.drop 4).take 4)
  typ := (b.drop 12).headD 0
  data := (b.drop 16).take (dataLength b)

/-- A turn of `splitRecords`: the first record and the rest of the bytes, or none where the record is cut short. -/
theorem splitRecords_succ {fuel : Nat} {b : List Byte} (hb : b ≠ []) :
    splitRecords (fuel + 1) b =
      if b.length < 16 + dataLength b then none
      else (splitRecords fuel (b.drop (16 + dataLength b))).map (firstRecord b :: ·) := by
  cases b with
  | nil => exact absurd rfl hb
  | cons c b => rfl

section Received
variable {r : ChunkRecord × Byte × Byte × Byte} (rest : List Byte)

theorem receivedRecord_length (r : ChunkRecord × Byte × Byte × Byte) :
    (receivedRecord r).length = 16 + r.1.data.length := by
  simp [receivedRecord]
  omega

theorem receivedRecord_append_ne_nil (r : ChunkRecord × Byte × Byte × Byte) : receivedRecord r ++ rest ≠ [] := by
  intro h
  have hlen := congrArg List.length h
  rw [List.length_append, receivedRecord_length, List.length_nil] at hlen
  omega

theorem dataLength_receivedRecord (hr : RecordFits r) : dataLength (receivedRecord r ++ rest) = r.1.data.length := by
  obtain ⟨-, -, hdata⟩ := hr
  have hfield : ((receivedRecord r ++ rest).drop 8).take 4 = beBytes 4 r.1.data.length := by
    simp [receivedRecord, beBytes]
  rw [dataLength, hfield, beVal_beBytes_four hdata]

theorem drop_receivedRecord (r : ChunkRecord × Byte × Byte × Byte) :
    (receivedRecord r ++ rest).drop (16 + r.1.data.length) = rest := by
  rw [← receivedRecord_length, List.drop_left]

/-- The fields of a record are read back, whatever its reserved bytes hold (R118). -/
theorem firstRecord_receivedRecord (hr : RecordFits r) : firstRecord (receivedRecord r ++ rest) = r.1 := by
  have hseq : (receivedRecord r ++ rest).take 4 = beBytes 4 r.1.seq := by simp [receivedRecord, beBytes]
  have htotal : ((receivedRecord r ++ rest).drop 4).take 4 = beBytes 4 r.1.total := by simp [receivedRecord, beBytes]
  have htyp : ((receivedRecord r ++ rest).drop 12).headD 0 = r.1.typ := by simp [receivedRecord, beBytes]
  have hdata : (receivedRecord r ++ rest).drop 16 = r.1.data ++ rest := by simp [receivedRecord, beBytes]
  rw [firstRecord, dataLength_receivedRecord rest hr, hseq, htotal, htyp, hdata, List.take_left,
    beVal_beBytes_four hr.1, beVal_beBytes_four hr.2.1]

end Received

/-- A string that holds its first record whole is that record's bytes and the rest. -/
theorem exists_receivedRecord {b : List Byte} (hwhole : 16 + dataLength b ≤ b.length) :
    ∃ r, RecordFits r ∧ r.1 = firstRecord b ∧ b = receivedRecord r ++ b.drop (16 + dataLength b) := by
  have hfield : ∀ off, off ≤ 12 → ((b.drop off).take 4).length = 4 := fun off hoff => by
    rw [List.length_take, List.length_drop]
    omega
  have hfits : ∀ off, off ≤ 12 → beVal ((b.drop off).take 4) < 2 ^ 32 := fun off hoff => by
    have hlt := beVal_lt ((b.drop off).take 4)
    rwa [hfield off hoff] at hlt
  have hdata : (firstRecord b).data.length = dataLength b := by
    rw [firstRecord, List.length_take, List.length_drop]
    omega
  obtain ⟨typ, x, y, z, hlast⟩ := List.length_eq_four.1 (hfield 12 le_rfl)
  have htyp : (firstRecord b).typ = typ := by
    have hhead := congrArg List.head? hlast
    rw [List.head?_take, if_neg (by decide)] at hhead
    rw [firstRecord, List.headD_eq_head?_getD, hhead]
    rfl
  refine ⟨(firstRecord b, x, y, z), ⟨hfits 0 (by decide), hfits 4 (by decide), hdata.trans_lt (hfits 8 (by decide))⟩, rfl, ?_⟩
  have hbytes : receivedRecord (firstRecord b, x, y, z) = b.take (16 + dataLength b) := by
    rw [receivedRecord, hdata, htyp, ← hlast, dataLength, beBytes_four_beVal (hfield 8 (by decide)), ← dataLength,
      show 16 + dataLength b = 4 + 4 + 4 + 4 + dataLength b by omega, List.take_add, List.take_add, List.take_add,
      List.take_add]
    have hseq : beBytes 4 (firstRecord b).seq = b.take 4 := beBytes_four_beVal (hfield 0 (by decide))
    have htotal : beBytes 4 (firstRecord b).total = (b.drop 4).take 4 := beBytes_four_beVal (hfield 4 (by decide))
    rw [hseq, htotal]
    rfl
  rw [hbytes, List.take_append_drop]

/-- What `splitRecords` answers are the records whose bytes the string is. -/
theorem exists_of_splitRecords {fuel : Nat} {b : List Byte} {rs : List ChunkRecord} (h : splitRecords fuel b = some rs) :
    ∃ received : List (ChunkRecord × Byte × Byte × Byte),
      (∀ r ∈ received, RecordFits r) ∧ b = received.flatMap receivedRecord := by
  induction fuel generalizing b rs with
  | zero =>
    cases b with
    | nil => exact ⟨[], nofun, rfl⟩
    | cons c b => cases h
  | succ fuel ih =>
    by_cases hb : b = []
    · exact ⟨[], nofun, hb⟩
    · rw [splitRecords_succ hb] at h
      split at h
      · cases h
      · next hwhole =>
        obtain ⟨rest, hrest, -⟩ := Option.map_eq_some_iff.1 h
        obtain ⟨received, hfits, hbytes⟩ := ih hrest
        obtain ⟨r, hr, -, hfirst⟩ := exists_receivedRecord (Nat.le_of_not_lt hwhole)
        refine ⟨r :: received, List.forall_mem_cons.2 ⟨hr, hfits⟩, ?_⟩
        rw [List.flatMap_cons, ← hbytes]
        exact hfirst

/-- The bytes of a list of records split back into it, given a turn for each record. -/
theorem splitRecords_flatMap {received : List (ChunkRecord × Byte × Byte × Byte)} (hfits : ∀ r ∈ received, RecordFits r)
    {fuel : Nat} (hfuel : received.length ≤ fuel) :
    splitRecords fuel (received.flatMap receivedRecord) = some (received.map Prod.fst) := by
  induction received generalizing fuel with
  | nil => cases fuel <;> rfl
  | cons r received ih =>
    obtain ⟨hr, hfits⟩ := List.forall_mem_cons.1 hfits
    obtain ⟨fuel, rfl⟩ := Nat.exists_eq_add_of_le' ((Nat.succ_pos _).trans_le hfuel)
    have hwhole : ¬ (receivedRecord r ++ received.flatMap receivedRecord).length < 16 + r.1.data.length := by
      rw [List.length_append, receivedRecord_length]
      omega
    rw [List.flatMap_cons, splitRecords_succ (receivedRecord_append_ne_nil _ r), dataLength_receivedRecord _ hr,
      if_neg hwhole, drop_receivedRecord, firstRecord_receivedRecord _ hr, ih hfits (Nat.le_of_succ_le_succ hfuel)]
    rfl

/-- A list of records has no more records than bytes. -/
theorem length_le_flatMap_receivedRecord (received : List (ChunkRecord × Byte × Byte × Byte)) :
    received.length ≤ (received.flatMap receivedRecord).length := by
  induction received with
  | nil => exact le_rfl
  | cons r received ih =>
    rw [List.flatMap_cons, List.length_append, receivedRecord_length, List.length_cons]
    omega

/-! ### The records in SEQ order (R202) -/

/-- Records are compared by their SEQ. -/
abbrev SeqLe (r x : ChunkRecord) : Prop := r.seq ≤ x.seq

theorem insertBySeq_eq_orderedInsert (r : ChunkRecord) (rs : List ChunkRecord) :
    insertBySeq r rs = rs.orderedInsert SeqLe r := by
  induction rs with
  | nil => rfl
  | cons x rs ih => rw [insertBySeq, List.orderedInsert_cons, ih]

/-- `sortBySeq` is the library's insertion sort. -/
theorem sortBySeq_eq_insertionSort (rs : List ChunkRecord) : sortBySeq rs = rs.insertionSort SeqLe := by
  induction rs with
  | nil => rfl
  | cons r rs ih => rw [sortBySeq, ih, insertBySeq_eq_orderedInsert, List.insertionSort_cons]

theorem sortBySeq_perm (rs : List ChunkRecord) : (sortBySeq rs).Perm rs := by
  rw [sortBySeq_eq_insertionSort]
  exact List.perm_insertionSort SeqLe rs

theorem sortBySeq_pairwise (rs : List ChunkRecord) : (sortBySeq rs).Pairwise SeqLe := by
  have : Std.Total SeqLe := ⟨fun r x => Nat.le_total r.seq x.seq⟩
  have : IsTrans ChunkRecord SeqLe := ⟨fun _ _ _ => Nat.le_trans⟩
  rw [sortBySeq_eq_insertionSort]
  exact List.pairwise_insertionSort SeqLe rs

/-- The one arrangement of the records whose SEQ fields are 0, 1, 2, … is what `sortBySeq` answers. -/
theorem sortBySeq_eq_of_perm {rs xs : List ChunkRecord} {n : Nat} (hperm : xs.Perm rs)
    (hseq : xs.map ChunkRecord.seq = List.range n) : sortBySeq rs = xs := by
  have hnodup : (xs.map ChunkRecord.seq).Nodup := hseq ▸ List.nodup_range
  have hpairwise : xs.Pairwise SeqLe := by
    have hrange : (xs.map ChunkRecord.seq).Pairwise (· ≤ ·) := hseq ▸ List.pairwise_le_range
    exact (List.pairwise_map (f := ChunkRecord.seq)).1 hrange
  have hall := (sortBySeq_perm rs).trans hperm.symm
  refine List.Perm.eq_of_pairwise (fun r x hr hx hrx hxr => ?_) (sortBySeq_pairwise rs) hpairwise hall
  exact List.inj_on_of_nodup_map hnodup (hall.mem_iff.1 hr) hx (Nat.le_antisymm hrx hxr)

/-- The records of R202 that make a byte string: their TOTAL fields are their number, and their SEQ fields are exactly
0 … TOTAL−1. -/
def IsWholeList (rs : List ChunkRecord) : Prop :=
  rs ≠ [] ∧ (∀ r ∈ rs, r.total = rs.length) ∧ (rs.map ChunkRecord.seq).Perm (List.range rs.length)

theorem isWholeList_of_chunksComplete {rs : List ChunkRecord} {total : Nat} (hne : rs ≠ [])
    (h : chunksComplete rs total = true) : IsWholeList rs := by
  simp only [chunksComplete, Bool.and_eq_true, List.all_eq_true, beq_iff_eq] at h
  obtain ⟨⟨htotal, hlen⟩, hseq⟩ := h
  subst hlen
  exact ⟨hne, htotal, hseq ▸ ((sortBySeq_perm rs).map ChunkRecord.seq).symm⟩

/-- R202 on records that make no byte string. -/
theorem performRecords_of_incomplete (s : State) {rs : List ChunkRecord} (h : ¬ IsWholeList rs) :
    performRecords s rs = .ok { rc := .incompleteChunks, res3 := resWord rs.length } := by
  unfold performRecords
  dsimp only
  split
  · next r rest _ _ _ =>
    exact if_neg fun hcomplete => h (isWholeList_of_chunksComplete (List.cons_ne_nil r rest) hcomplete)
  · rfl

/-- R202 on the records x, xs in SEQ order, received in any order. -/
theorem performRecords_of_complete (s : State) {rs : List ChunkRecord} {x : ChunkRecord} {xs : List ChunkRecord}
    (hperm : (x :: xs).Perm rs) (htotal : ∀ r ∈ rs, r.total = rs.length)
    (hseq : (x :: xs).map ChunkRecord.seq = List.range rs.length) :
    performRecords s rs =
      emit s { rc := .success, res1 := x.typ.setWidth 32, res2 := resWord rs.length, res3 := resWord rs.length }
        { rc := .success, res0 := resWord ((x :: xs).flatMap ChunkRecord.data).length, res1 := x.typ.setWidth 32
          res2 := resWord rs.length, res3 := resWord rs.length, out := (x :: xs).flatMap ChunkRecord.data } := by
  have hsorted := sortBySeq_eq_of_perm hperm hseq
  cases rs with
  | nil => cases hperm.length_eq
  | cons r rest =>
    have hr : r.total = (r :: rest).length := htotal r List.mem_cons_self
    have hcomplete : chunksComplete (r :: rest) r.total = true := by
      simp only [chunksComplete, Bool.and_eq_true, List.all_eq_true, beq_iff_eq]
      exact ⟨⟨fun y hy => (htotal y hy).trans hr.symm, hr.symm⟩, by rw [hsorted, hr]; exact hseq⟩
    unfold performRecords
    rw [hsorted]
    refine (if_pos hcomplete).trans ?_
    rw [hr]

/-! ### REASSEMBLE (R202) -/

/-- Settles O20: the bytes split exactly where they are whole records (`exists_of_splitRecords`, `splitRecords_flatMap`), and
the records make a byte string exactly where one arrangement has the SEQ fields 0 … TOTAL−1. -/
theorem reassembleResult : Obligations.ReassembleResult := by
  unfold Obligations.ReassembleResult
  refine ⟨decode_encode .reassemble, fun s => writerChecks_of rfl rfl rfl fun hx => onSrcBytes_of hx fun b _ hx =>
    ⟨fun hno => ?badArg, fun rs hfits hb => ?records⟩⟩
  case badArg =>
    cases hsplit : splitRecords b.length b with
    | none =>
      rw [hsplit] at hx
      exact ends_of_raise hx
    | some rs => exact absurd (exists_of_splitRecords hsplit) hno
  case records =>
    have hsplit : splitRecords b.length b = some (rs.map Prod.fst) := by
      rw [hb]
      exact splitRecords_flatMap hfits (length_le_flatMap_receivedRecord rs)
    rw [hsplit] at hx
    refine ⟨fun hincomplete => ?incomplete, fun x xs out hperm htotal hseq hout => ?complete⟩
    case incomplete =>
      have hnot : ¬ IsWholeList (rs.map Prod.fst) := by
        rintro ⟨hne, htotal, hseq⟩
        rw [List.length_map] at htotal hseq
        rw [List.map_map] at hseq
        exact hincomplete ⟨fun hnil => hne (by rw [hnil]; rfl), fun r hr => htotal r.1 (List.mem_map_of_mem hr), hseq⟩
      have hends := ends_of_finish (hx.trans (congrArg _ (performRecords_of_incomplete s hnot)))
      rw [List.length_map] at hends
      exact hends
    case complete =>
      have hmapped : ∀ r ∈ rs.map Prod.fst, r.total = (rs.map Prod.fst).length := by
        rw [List.length_map]
        exact List.forall_mem_map.2 htotal
      have hnames : ((x :: xs).map Prod.fst).map ChunkRecord.seq = List.range (rs.map Prod.fst).length := by
        rw [List.map_map, List.length_map]
        exact hseq
      have hemits := emits_of_finish (hx.trans (congrArg _
        (performRecords_of_complete s (hperm.map Prod.fst) hmapped hnames)))
      rw [← List.map_cons, List.flatMap_map, List.length_map] at hemits
      rw [hout]
      exact hemits

/-! ### What CHUNK wrote (R200, R203) -/

theorem chunksOf_length (m : Nat) (t : Byte) (d : List Byte) : (chunksOf m t d).length = chunkCount d.length m := by
  rw [chunksOf, List.length_map, List.length_range]

theorem total_of_mem_chunksOf {m : Nat} {t : Byte} {d : List Byte} {r : ChunkRecord} (h : r ∈ chunksOf m t d) :
    r.total = chunkCount d.length m := by
  obtain ⟨i, -, rfl⟩ := List.mem_map.1 h
  rfl

theorem seq_chunksOf (m : Nat) (t : Byte) (d : List Byte) :
    (chunksOf m t d).map ChunkRecord.seq = List.range (chunkCount d.length m) := by
  rw [chunksOf, List.map_map]
  exact List.map_id _

/-- The first k chunks hold the first k·m bytes. -/
theorem flatMap_chunk_eq_take (d : List Byte) (m k : Nat) :
    (List.range k).flatMap (fun i => (d.drop (i * m)).take m) = d.take (k * m) := by
  induction k with
  | zero => rw [Nat.zero_mul, List.take_zero]; rfl
  | succ k ih =>
    rw [List.range_succ, List.flatMap_append, ih, List.flatMap_singleton, Nat.succ_mul, List.take_add]

theorem length_le_chunkCount_mul {m : Nat} (hm : 0 < m) (n : Nat) : n ≤ chunkCount n m * m := by
  have hceil : n ≤ (n + m - 1) / m * m := by
    have hdiv := Nat.div_add_mod' (n + m - 1) m
    have hmod := Nat.mod_lt (n + m - 1) hm
    omega
  exact hceil.trans (Nat.mul_le_mul_right m (Nat.le_max_right 1 _))

/-- The chunks of a byte string, in order, hold the string (R200). -/
theorem data_chunksOf {m : Nat} (hm : 0 < m) (t : Byte) (d : List Byte) :
    (chunksOf m t d).flatMap ChunkRecord.data = d := by
  rw [chunksOf, List.flatMap_map, flatMap_chunk_eq_take]
  exact List.take_of_length_le (length_le_chunkCount_mul hm d.length)

/-- A record as CHUNK writes it: its reserved bytes are 0. -/
def writtenRecord (r : ChunkRecord) : ChunkRecord × Byte × Byte × Byte := (r, 0, 0, 0)

theorem recordsBytes_eq_flatMap (rs : List ChunkRecord) : recordsBytes rs = (rs.map writtenRecord).flatMap receivedRecord := by
  rw [List.flatMap_map]
  rfl

theorem recordsBytes_length (rs : List ChunkRecord) :
    (recordsBytes rs).length = 16 * rs.length + (rs.flatMap ChunkRecord.data).length := by
  induction rs with
  | nil => rfl
  | cons r rs ih =>
    have hfirst : recordsBytes (r :: rs) = receivedRecord (writtenRecord r) ++ recordsBytes rs := rfl
    rw [hfirst, List.length_append, receivedRecord_length, ih, List.flatMap_cons, List.length_append, List.length_cons]
    show 16 + r.data.length + _ = _
    omega

/-- The records of a byte string fit their 32-bit fields where their number and the string's length do. -/
theorem recordFits_of_mem_chunksOf {m : Nat} {t : Byte} {d : List Byte} (hd : d.length < 2 ^ 32)
    (hk : chunkCount d.length m < 2 ^ 32) {r : ChunkRecord} (h : r ∈ chunksOf m t d) : RecordFits (writtenRecord r) := by
  obtain ⟨i, hi, rfl⟩ := List.mem_map.1 h
  refine ⟨(List.mem_range.1 hi).trans hk, hk, ?_⟩
  have hlen : ((d.drop (i * m)).take m).length ≤ d.length :=
    (List.length_take_le' _ _).trans (List.length_drop ▸ Nat.sub_le _ _)
  exact hlen.trans_lt hd

theorem typ_of_mem_chunksOf {m : Nat} {t : Byte} {d : List Byte} {r : ChunkRecord} (h : r ∈ chunksOf m t d) : r.typ = t := by
  obtain ⟨i, -, rfl⟩ := List.mem_map.1 h
  rfl

theorem chunksOf_ne_nil (m : Nat) (t : Byte) (d : List Byte) : chunksOf m t d ≠ [] := by
  have hpos : 0 < (chunksOf m t d).length := by
    rw [chunksOf_length]
    exact Nat.le_max_left 1 _
  exact List.ne_nil_of_length_pos hpos

/-- A CHUNK that ended with SUCCESS had a type in ARG0 and a chunk size, and wrote the records, whose number and length RES0
and RES1 hold: the list fits DST_CAP, so its length fits a register. -/
theorem chunk_of_success {s t : State} {d : List Byte} (hd : SrcBytesAre s s.srcLen.toNat d) (hx : exec .chunk s = .next t)
    (hrc : t.rc = .success) :
    s.arg0.extractLsb' 8 24 = 0 ∧ 0 < s.cfgChunk.toNat ∧ t.res0 = resWord (chunkCount d.length s.cfgChunk.toNat)
      ∧ t.res1.toNat = (recordsBytes (chunksOf s.cfgChunk.toNat (lowByte s.arg0) d)).length
      ∧ memBytes t.mem s.dstAddr.toNat t.res1.toNat = some (recordsBytes (chunksOf s.cfgChunk.toNat (lowByte s.arg0) d)) := by
  have hown : exec .chunk s = finish s (performChunk s) := own_of_writerChecks hx hrc (writerChecks_of rfl rfl rfl id)
  have hargs : ¬ (s.arg0.extractLsb' 8 24 ≠ 0 ∨ s.cfgChunk = 0) := fun hbad =>
    not_ends_of_success hx hrc (by decide) (ends_of_raise (hown.trans (congrArg _ (performChunk_of_bad_arg hbad))))
  obtain ⟨h0, hm⟩ := not_or.1 hargs
  have h0 := not_not.1 h0
  have hpos : 0 < s.cfgChunk.toNat := Nat.pos_of_ne_zero (BitVec.toNat_ne_iff_ne.2 hm)
  have hlen : (recordsBytes (chunksOf s.cfgChunk.toNat (lowByte s.arg0) d)).length
      = 16 * chunkCount d.length s.cfgChunk.toNat + d.length := by
    rw [recordsBytes_length, chunksOf_length, data_chunksOf hpos]
  rw [performChunk_of_args h0 hm, withSrcBytes_some _ ((memBytes_eq_some_iff _ _ _ _).2 hd), ← hd.1, ← hlen] at hown
  have hemits := emits_of_finish hown
  have hcap : (recordsBytes (chunksOf s.cfgChunk.toNat (lowByte s.arg0) d)).length ≤ s.dstCap.toNat :=
    Nat.le_of_not_lt fun hlt => not_ends_of_success hx hrc (by decide) (hemits.1 hlt)
  obtain ⟨-, -, -, -, hres0, hres1, -, -, hout, -⟩ := completedAs_of_emits hx hrc hemits
  have hcount : t.res1.toNat = (recordsBytes (chunksOf s.cfgChunk.toNat (lowByte s.arg0) d)).length :=
    (congrArg BitVec.toNat hres1).trans (Nat.mod_eq_of_lt (hcap.trans_lt s.dstCap.isLt))
  refine ⟨h0, hpos, hres0, hcount, ?_⟩
  rw [hcount]
  exact memBytes_of_storesOutput hout

/-- REASSEMBLE past the common checks, on records that are initialised: their completion. -/
theorem exec_reassemble {u : State} {rs : List ChunkRecord} (hfits : ∀ r ∈ rs, RecordFits (writtenRecord r))
    (hbytes : SrcBytesAre u u.srcLen.toNat (recordsBytes rs)) (hsrc : SrcFits u u.srcLen.toNat) (hdst : DstFits u)
    (hapart : RangesApart u u.srcLen.toNat) : exec .reassemble u = finish u (performRecords u rs) := by
  have hcheck : commonCheck .reassemble u = none :=
    (commonCheck_eq_none_iff _ _).2 ⟨fun _ => hsrc, fun _ => hdst, fun _ _ => hapart⟩
  have hsplit : splitRecords (recordsBytes rs).length (recordsBytes rs) = some rs := by
    rw [recordsBytes_eq_flatMap, splitRecords_flatMap (List.forall_mem_map.2 hfits)
      (length_le_flatMap_receivedRecord _), List.map_map]
    exact congrArg some (List.map_id rs)
  have hperform : performReassemble u = performRecords u rs := by
    rw [performReassemble, withSrcBytes_some _ ((memBytes_eq_some_iff _ _ _ _).2 hbytes), hsplit]
  exact (exec_of_checked hcheck).trans (congrArg _ hperform)

/-- The records of a byte string, with one of them missing, are too few for their TOTAL (R203). -/
theorem not_isWholeList_eraseIdx {m i : Nat} {ty : Byte} {d : List Byte} (hi : i < chunkCount d.length m) :
    ¬ IsWholeList ((chunksOf m ty d).eraseIdx i) := by
  rintro ⟨hne, htotal, -⟩
  obtain ⟨r, hr⟩ := List.exists_mem_of_ne_nil _ hne
  have hcount := htotal r hr
  rw [total_of_mem_chunksOf (List.mem_of_mem_eraseIdx hr), List.length_eraseIdx_of_lt (by rwa [chunksOf_length]),
    chunksOf_length] at hcount
  omega

/-- The records of a byte string make the string again (R203). -/
theorem performRecords_chunksOf (s : State) {m : Nat} (hm : 0 < m) (ty : Byte) (d : List Byte) :
    performRecords s (chunksOf m ty d) =
      emit s
        { rc := .success, res1 := ty.setWidth 32, res2 := resWord (chunkCount d.length m)
          res3 := resWord (chunkCount d.length m) }
        { rc := .success, res0 := resWord d.length, res1 := ty.setWidth 32, res2 := resWord (chunkCount d.length m)
          res3 := resWord (chunkCount d.length m), out := d } := by
  have hlen := chunksOf_length m ty d
  have hdata := data_chunksOf hm ty d
  have hseq := seq_chunksOf m ty d
  have htotal : ∀ r ∈ chunksOf m ty d, r.total = chunkCount d.length m := fun _ => total_of_mem_chunksOf
  have htyp : ∀ r ∈ chunksOf m ty d, r.typ = ty := fun _ => typ_of_mem_chunksOf
  obtain ⟨x, xs, hxs⟩ := List.exists_cons_of_ne_nil (chunksOf_ne_nil m ty d)
  rw [hxs] at hlen hdata hseq htotal htyp ⊢
  rw [← hlen] at htotal hseq ⊢
  rw [performRecords_of_complete s (List.Perm.refl _) htotal hseq, hdata, htyp x List.mem_cons_self]

/-- Settles O21: CHUNK's success leaves the records in buffer RAM (`chunk_of_success`); REASSEMBLE puts them together, and
refuses the list with one of them missing. -/
theorem chunkRoundTripAndIncompleteness : Obligations.ChunkRoundTripAndIncompleteness := by
  unfold Obligations.ChunkRoundTripAndIncompleteness
  refine ⟨fun s t u d hd hx hrc hmem haddr hlen hcap hsrc hdst hapart => ?roundTrip,
    fun s d m i ty _ hd hk hi hbytes hsrc hdst hapart => ?missing⟩
  case roundTrip =>
    obtain ⟨h0, hm, hres0, hres1, hread⟩ := chunk_of_success hd hx hrc
    have hbound : 16 * chunkCount d.length s.cfgChunk.toNat + d.length < 2 ^ 32 := by
      have hlt := t.res1.isLt
      rwa [hres1, recordsBytes_length, chunksOf_length, data_chunksOf hm] at hlt
    rw [← hlen] at hsrc hapart hread
    rw [← haddr, ← hmem, memBytes_eq_some_iff] at hread
    have hreassemble :=
      exec_reassemble (fun _ => recordFits_of_mem_chunksOf (by omega) (by omega)) hread hsrc hdst hapart
    rw [performRecords_chunksOf u hm] at hreassemble
    have hends := (emits_of_finish hreassemble).2 hcap
    have htyp : (lowByte s.arg0).setWidth 32 = s.arg0 := by
      rw [← BitVec.ofNat_toNat]
      exact resWord_lowByte h0
    simp only [htyp, ← hres0] at hends
    exact hends
  case missing =>
    have hreassemble := exec_reassemble
      (fun _ hr => recordFits_of_mem_chunksOf hd hk (List.mem_of_mem_eraseIdx hr)) hbytes hsrc hdst hapart
    rw [performRecords_of_incomplete s (not_isWholeList_eraseIdx hi),
      List.length_eraseIdx_of_lt (by rwa [chunksOf_length]), chunksOf_length] at hreassemble
    exact ends_of_finish hreassemble

end Sys2Proof.Machine
